-- ==== Sys2Proof/Word.lean ====
section
/-! DEFINITION. The word types of the unit (spec/00_scope.md R12, spec/30_encoding.md R45, R48). -/

namespace Sys2Proof

/-- A command word, a micro-op word, a response word or the STATUS register: 64 bits. -/
abbrev Word64 := BitVec 64

/-- A name character (R17) or an output unit (R28): 8 bits. -/
abbrev Byte := BitVec 8

end Sys2Proof
end

