-- ==== Sys2Proof/Syntax.lean ====
section
/-! DEFINITION. The instructions: one constructor per row of spec/opcode_table.json, the host
commands of FOX-CMD v1 first, then the micro-ops of FOX-MICRO v1 (spec/30_encoding.md). -/

namespace Sys2Proof

/-- The two instruction formats. Every word of either is 64 bits (R51). -/
inductive Format where
  /-- FOX-CMD v1, the host command words of port `cmd` (R45). -/
  | command
  /-- FOX-MICRO v1, the words of the block micro-program ROM (R48). -/
  | micro
  deriving DecidableEq, Repr

/-- An instruction: a host command (R47, R50) or a micro-op (R49, R50). -/
inductive Instr where
  /-- NOP (R55). -/
  | nop
  /-- ENCODE with the request length N of `cmd[59:0]` (R46, R53). -/
  | encode (n : BitVec 60)
  /-- READ_ALFN (R56). -/
  | readAlfn
  /-- READ_STATUS (R57). -/
  | readStatus
  /-- READ_FRAME_BITS (R58). -/
  | readFrameBits
  /-- A NOP word whose ARG is not 0 (R50, R55). -/
  | illegalNopArg (arg : BitVec 60)
  /-- A READ_ALFN word whose ARG is not 0 (R50, R56). -/
  | illegalReadAlfnArg (arg : BitVec 60)
  /-- A READ_STATUS word whose ARG is not 0 (R50, R57). -/
  | illegalReadStatusArg (arg : BitVec 60)
  /-- A READ_FRAME_BITS word whose ARG is not 0 (R50, R58). -/
  | illegalReadFrameBitsArg (arg : BitVec 60)
  /-- OP 0x5, any ARG (R59). -/
  | reservedCmd5 (arg : BitVec 60)
  /-- OP 0x6 or 0x7, any ARG (R59): the row fixes bits 63:61, `rest` is bits 60:0. -/
  | reservedCmd6to7 (rest : BitVec 61)
  /-- OP 0x8 to 0xF, any ARG (R59): the row fixes bit 63, `rest` is bits 62:0. -/
  | reservedCmd8toF (rest : BitVec 63)
  /-- BSTART (R62). -/
  | bstart
  /-- EMIT: the field width W and the value IMM (R71). -/
  | emit (w : BitVec 6) (imm : BitVec 32)
  /-- NAME (R75). -/
  | name
  /-- PADTO: the minimum running block length IMM (R72). -/
  | padto (imm : BitVec 32)
  /-- ALFNSL (R63). -/
  | alfnsl
  /-- CRC (R80). -/
  | crc
  /-- BEND (R64). -/
  | bend
  /-- MOP 0x7 (R50): `rest` is bits 59:0. -/
  | reservedMicro7 (rest : BitVec 60)
  /-- MOP 0x8 to 0xF (R50): the row fixes bit 63, `rest` is bits 62:0. -/
  | reservedMicro8toF (rest : BitVec 63)
  deriving DecidableEq, Repr

/-- The format an instruction belongs to. -/
def Instr.format : Instr → Format
  | .nop => .command
  | .encode _ => .command
  | .readAlfn => .command
  | .readStatus => .command
  | .readFrameBits => .command
  | .illegalNopArg _ => .command
  | .illegalReadAlfnArg _ => .command
  | .illegalReadStatusArg _ => .command
  | .illegalReadFrameBitsArg _ => .command
  | .reservedCmd5 _ => .command
  | .reservedCmd6to7 _ => .command
  | .reservedCmd8toF _ => .command
  | .bstart => .micro
  | .emit _ _ => .micro
  | .name => .micro
  | .padto _ => .micro
  | .alfnsl => .micro
  | .crc => .micro
  | .bend => .micro
  | .reservedMicro7 _ => .micro
  | .reservedMicro8toF _ => .micro

end Sys2Proof
end

