-- ==== Sys2Proof/WellFormed.lean ====
section
/-! DEFINITION. The checks on an instruction: what its row of the opcode table admits, and what the
ROM of the unit may hold (spec/30_encoding.md R49, R50). -/

namespace Sys2Proof

/-- The instruction is one its row stands for. The only check of the table: an ILLEGAL_*_ARG row is
for a nonzero ARG, since the exact row of the opcode takes precedence (R50). -/
def Instr.encodable : Instr → Bool
  | .nop => true
  | .encode _ => true
  | .readAlfn => true
  | .readStatus => true
  | .readFrameBits => true
  | .illegalNopArg arg => arg != 0
  | .illegalReadAlfnArg arg => arg != 0
  | .illegalReadStatusArg arg => arg != 0
  | .illegalReadFrameBitsArg arg => arg != 0
  | .reservedCmd5 _ => true
  | .reservedCmd6to7 _ => true
  | .reservedCmd8toF _ => true
  | .bstart => true
  | .emit _ _ => true
  | .name => true
  | .padto _ => true
  | .alfnsl => true
  | .crc => true
  | .bend => true
  | .reservedMicro7 _ => true
  | .reservedMicro8toF _ => true

/-- The required fields of R49: an EMIT has `1 <= W <= 32` and `IMM < 2^W`; the reserved
micro-opcodes are never in the ROM. A command has no such check. -/
def Instr.romFields : Instr → Bool
  | .emit w imm => 1 ≤ w.toNat && w.toNat ≤ 32 && imm.toNat < 2 ^ w.toNat
  | .reservedMicro7 _ => false
  | .reservedMicro8toF _ => false
  | .nop => true
  | .encode _ => true
  | .readAlfn => true
  | .readStatus => true
  | .readFrameBits => true
  | .illegalNopArg _ => true
  | .illegalReadAlfnArg _ => true
  | .illegalReadStatusArg _ => true
  | .illegalReadFrameBitsArg _ => true
  | .reservedCmd5 _ => true
  | .reservedCmd6to7 _ => true
  | .reservedCmd8toF _ => true
  | .bstart => true
  | .name => true
  | .padto _ => true
  | .alfnsl => true
  | .crc => true
  | .bend => true

/-- Well formed: one of its row's instructions, with the fields R49 requires. -/
def Instr.wellFormed (i : Instr) : Bool := i.encodable && i.romFields

end Sys2Proof
end

