-- ==== Sys2Proof/Decode.lean ====
section
/-! DEFINITION. The decoders of the two formats, the encoder, and the opcode table's masks
(spec/30_encoding.md R45 to R51, spec/opcode_table.json). -/

namespace Sys2Proof

/-- The opcode field, bits 63:60 of a command word (OP) or of a micro-op word (MOP). -/
def opField (w : Word64) : BitVec 4 := w.extractLsb' 60 4

/-- ARG, bits 59:0 of a command word (R45). -/
def argField (w : Word64) : BitVec 60 := w.extractLsb' 0 60

/-- W, bits 59:54 of a micro-op word (R48). -/
def widthField (w : Word64) : BitVec 6 := w.extractLsb' 54 6

/-- The reserved bits 53:32 of a micro-op word (R48). -/
def reservedField (w : Word64) : BitVec 22 := w.extractLsb' 32 22

/-- IMM, bits 31:0 of a micro-op word (R48). -/
def immField (w : Word64) : BitVec 32 := w.extractLsb' 0 32

/-- The command a 64-bit word on port `cmd` stands for. Every word is exactly one row, the exact row
(ARG = 0) before the ILLEGAL_*_ARG row (R47, R50), so this decoder refuses nothing. -/
def decodeCommand (w : Word64) : Instr :=
  match (opField w).toNat with
  | 0 => if argField w = 0 then .nop else .illegalNopArg (argField w)
  | 1 => .encode (argField w)
  | 2 => if argField w = 0 then .readAlfn else .illegalReadAlfnArg (argField w)
  | 3 => if argField w = 0 then .readStatus else .illegalReadStatusArg (argField w)
  | 4 => if argField w = 0 then .readFrameBits else .illegalReadFrameBitsArg (argField w)
  | 5 => .reservedCmd5 (argField w)
  | 6 => .reservedCmd6to7 (w.extractLsb' 0 61)
  | 7 => .reservedCmd6to7 (w.extractLsb' 0 61)
  | _ => .reservedCmd8toF (w.extractLsb' 0 63)

/-- Why a micro-op word has no meaning. -/
inductive MicroDecodeError where
  /-- A defined micro-opcode with a field that its row fixes at 0 and that is not 0: no row of the
  opcode table matches the word (R50: it "never occurs"). -/
  | fixedFieldNotZero (w : Word64)
  deriving DecidableEq, Repr

/-- The micro-op a ROM word stands for (R48, R49), or the named reason it stands for none (R50).
A row of the table that fixes a field at 0 rejects the word in which that field is not 0. -/
def decodeMicro (w : Word64) : Except MicroDecodeError Instr :=
  match (opField w).toNat with
  | 0 => if argField w = 0 then .ok .bstart else .error (.fixedFieldNotZero w)
  | 1 => if reservedField w = 0 then .ok (.emit (widthField w) (immField w))
         else .error (.fixedFieldNotZero w)
  | 2 => if argField w = 0 then .ok .name else .error (.fixedFieldNotZero w)
  | 3 => if widthField w = 0 ∧ reservedField w = 0 then .ok (.padto (immField w))
         else .error (.fixedFieldNotZero w)
  | 4 => if argField w = 0 then .ok .alfnsl else .error (.fixedFieldNotZero w)
  | 5 => if argField w = 0 then .ok .crc else .error (.fixedFieldNotZero w)
  | 6 => if argField w = 0 then .ok .bend else .error (.fixedFieldNotZero w)
  | 7 => .ok (.reservedMicro7 (argField w))
  | _ => .ok (.reservedMicro8toF (w.extractLsb' 0 63))

/-- The word of an instruction, in its own format (R45, R48). -/
def encode : Instr → Word64
  | .nop => 0x0#4 ++ 0#60
  | .encode n => 0x1#4 ++ n
  | .readAlfn => 0x2#4 ++ 0#60
  | .readStatus => 0x3#4 ++ 0#60
  | .readFrameBits => 0x4#4 ++ 0#60
  | .illegalNopArg arg => 0x0#4 ++ arg
  | .illegalReadAlfnArg arg => 0x2#4 ++ arg
  | .illegalReadStatusArg arg => 0x3#4 ++ arg
  | .illegalReadFrameBitsArg arg => 0x4#4 ++ arg
  | .reservedCmd5 arg => 0x5#4 ++ arg
  | .reservedCmd6to7 rest => 0b011#3 ++ rest
  | .reservedCmd8toF rest => 1#1 ++ rest
  | .bstart => 0x0#4 ++ 0#60
  | .emit w imm => 0x1#4 ++ w ++ 0#22 ++ imm
  | .name => 0x2#4 ++ 0#60
  | .padto imm => 0x3#4 ++ 0#6 ++ 0#22 ++ imm
  | .alfnsl => 0x4#4 ++ 0#60
  | .crc => 0x5#4 ++ 0#60
  | .bend => 0x6#4 ++ 0#60
  | .reservedMicro7 rest => 0x7#4 ++ rest
  | .reservedMicro8toF rest => 1#1 ++ rest

/-- The decoder of a format. -/
def decodeIn (f : Format) (w : Word64) : Except MicroDecodeError Instr :=
  match f with
  | .command => .ok (decodeCommand w)
  | .micro => decodeMicro w

/-- One row's match and mask in spec/opcode_table.json. -/
structure TableRow where
  mnemonic : String
  pattern : Word64
  mask : Word64
  deriving DecidableEq, Repr

/-- The row of spec/opcode_table.json an instruction belongs to. -/
def Instr.row : Instr → TableRow
  | .nop => ⟨"NOP", 0x0000000000000000, 0xFFFFFFFFFFFFFFFF⟩
  | .encode _ => ⟨"ENCODE", 0x1000000000000000, 0xF000000000000000⟩
  | .readAlfn => ⟨"READ_ALFN", 0x2000000000000000, 0xFFFFFFFFFFFFFFFF⟩
  | .readStatus => ⟨"READ_STATUS", 0x3000000000000000, 0xFFFFFFFFFFFFFFFF⟩
  | .readFrameBits => ⟨"READ_FRAME_BITS", 0x4000000000000000, 0xFFFFFFFFFFFFFFFF⟩
  | .illegalNopArg _ => ⟨"ILLEGAL_NOP_ARG", 0x0000000000000000, 0xF000000000000000⟩
  | .illegalReadAlfnArg _ => ⟨"ILLEGAL_READ_ALFN_ARG", 0x2000000000000000, 0xF000000000000000⟩
  | .illegalReadStatusArg _ => ⟨"ILLEGAL_READ_STATUS_ARG", 0x3000000000000000, 0xF000000000000000⟩
  | .illegalReadFrameBitsArg _ =>
      ⟨"ILLEGAL_READ_FRAME_BITS_ARG", 0x4000000000000000, 0xF000000000000000⟩
  | .reservedCmd5 _ => ⟨"RESERVED_CMD_5", 0x5000000000000000, 0xF000000000000000⟩
  | .reservedCmd6to7 _ => ⟨"RESERVED_CMD_6_7", 0x6000000000000000, 0xE000000000000000⟩
  | .reservedCmd8toF _ => ⟨"RESERVED_CMD_8_F", 0x8000000000000000, 0x8000000000000000⟩
  | .bstart => ⟨"BSTART", 0x0000000000000000, 0xFFFFFFFFFFFFFFFF⟩
  | .emit _ _ => ⟨"EMIT", 0x1000000000000000, 0xF03FFFFF00000000⟩
  | .name => ⟨"NAME", 0x2000000000000000, 0xFFFFFFFFFFFFFFFF⟩
  | .padto _ => ⟨"PADTO", 0x3000000000000000, 0xFFFFFFFF00000000⟩
  | .alfnsl => ⟨"ALFNSL", 0x4000000000000000, 0xFFFFFFFFFFFFFFFF⟩
  | .crc => ⟨"CRC", 0x5000000000000000, 0xFFFFFFFFFFFFFFFF⟩
  | .bend => ⟨"BEND", 0x6000000000000000, 0xFFFFFFFFFFFFFFFF⟩
  | .reservedMicro7 _ => ⟨"RESERVED_MICRO_7", 0x7000000000000000, 0xF000000000000000⟩
  | .reservedMicro8toF _ => ⟨"RESERVED_MICRO_8_F", 0x8000000000000000, 0x8000000000000000⟩

/-- The word matches the row: its bits under the row's mask are the row's pattern. -/
def TableRow.admits (r : TableRow) (w : Word64) : Bool := w &&& r.mask == r.pattern

/-- The host's reading of one word of the opcode table: the COMMAND the word stands for, since the
first instruction after reset is a command (PHASE is IDLE, R100). The micro-op rows use the same 64
bits and are read by `decodeMicro` when PHASE is RUN: log entry 9. A word is at most 64 bits. -/
def decodeTableWord (nbits w : Nat) : Option Instr :=
  if nbits ≤ 64 then some (decodeCommand (BitVec.ofNat 64 (w % 2 ^ nbits))) else none

end Sys2Proof
end

