-- ==== Sys2Proof/Config.lean ====
section
/-! DEFINITION. What an implementation fixes: the OPEN parameters (spec/00_scope.md R8), and the values the
spec leaves to the outside or leaves free, as constants without a body. -/

namespace Sys2Proof

/-- The OPEN configuration parameters of R8, as they are supplied: natural numbers that
`Config.wellFormed` checks against the domains of R8 (R10). -/
structure Config where
  /-- PIDS_FORMATTED, the first bit of every block. -/
  pidsFormatted : Nat
  /-- NO_EXTENSION, the second bit of every block. -/
  noExtension : Nat
  /-- STATION_NAME_LONG, the 32-bit type tag. -/
  stationNameLong : Nat
  /-- EXTENSION_FM, the 2-bit FM extension tag. -/
  extensionFm : Nat
  /-- TIME_NOT_LOCKED, the time-lock bit. -/
  timeNotLocked : Nat
  /-- PAD_MIN, the minimum running block length before the reserved bit. -/
  padMin : Nat
  /-- BLOCKS_PER_FRAME. -/
  blocksPerFrame : Nat
  /-- W_ALFN, the width of the ALFN counter. -/
  wAlfn : Nat
  deriving DecidableEq, Repr, Inhabited

/-- Test instance TI-A (spec/92_eei_decisions.md D24). Not claimed to be the NRSC-5 values. -/
def Config.testInstanceA : Config :=
  { pidsFormatted := 0, noExtension := 0, stationNameLong := 0x00000001, extensionFm := 1,
    timeNotLocked := 1, padMin := 64, blocksPerFrame := 16, wAlfn := 32 }

/-- Test instance TI-B (spec/92_eei_decisions.md D24). Not claimed to be the NRSC-5 values. -/
def Config.testInstanceB : Config :=
  { pidsFormatted := 1, noExtension := 1, stationNameLong := 0xA5A5A5A5, extensionFm := 2,
    timeNotLocked := 0, padMin := 256, blocksPerFrame := 4, wAlfn := 32 }

/-- The values of the OPEN parameters (R8: "obtain them from the NRSC-5 SIS specification"), which the
spec does not give. DESIGN CHOICE, safe: no value is known. Log entry 1. -/
opaque Config.openParameters : Config

/-- What the host drives on `name_in` at the construction `State.reset` stands for (R98). DESIGN CHOICE,
safe: no value is known. Log entry 2. -/
opaque Config.nameIn : Vector Byte 32

/-- What the host drives on `alfn_in` at the construction `State.reset` stands for (R98). DESIGN CHOICE,
safe: no value is known. Log entry 2. -/
opaque Config.alfnIn : Word64

/-- OUT_BASE after the n-th reset: "unspecified" (R27), "any value" (spec/93 item I12). DESIGN CHOICE,
safe: no value is known. Log entry 3. -/
opaque Config.outBaseAfterReset : Nat → Nat

end Sys2Proof
end

