-- ==== Sys2Proof/Machine/Params.lean ====
section
/-! DEFINITION. The widths and constants of spec/00_scope.md R7, the sizes of R9 and the configuration
check of R10. -/

namespace Sys2Proof

/-- N_CHARS (R7). -/
def nChars : Nat := 32
/-- W_CHAR (R7). -/
def wChar : Nat := 5
/-- W_FLAG (R7). -/
def wFlag : Nat := 1
/-- W_TYPE (R7). -/
def wType : Nat := 32
/-- W_EXT (R7). -/
def wExt : Nat := 2
/-- W_SLICE (R7). -/
def wSlice : Nat := 2
/-- W_CRC (R7). -/
def wCrc : Nat := 12
/-- CRC_FLUSH (R7). -/
def crcFlushRounds : Nat := 16
/-- CRC_POLY (R7). -/
def crcPoly : BitVec 16 := 0xD010
/-- CRC_INIT (R7). -/
def crcInit : BitVec 16 := 0x0000
/-- CRC_XOROUT (R7). -/
def crcXorOut : BitVec 16 := 0x0955
/-- RESERVED_BIT (R7). -/
def reservedBit : Nat := 0
/-- PAD_BIT (R7). -/
def padBit : Bool := false

/-- HEAD_BITS (R9): the running block length after the station-name sub-block. -/
def headBits : Nat := 2 * wFlag + wType + nChars * wChar + wExt

/-- PAYLOAD_BITS (R9): the running block length after padding. -/
def Config.payloadBits (c : Config) : Nat := max headBits c.padMin

/-- CRC_DATA_BITS (R9): how many bits the checksum covers. -/
def Config.crcDataBits (c : Config) : Nat := c.payloadBits + 4

/-- BLOCK_BITS (R9), the source's SIS_BITS. -/
def Config.blockBits (c : Config) : Nat := c.crcDataBits + wCrc

/-- FRAME_BITS (R9). -/
def Config.frameBits (c : Config) : Nat := c.blocksPerFrame * c.blockBits

/-- The configuration check of R10: every OPEN parameter in the domain of R8, and
`FRAME_BITS <= 2^60 − 1`. -/
def Config.wellFormed (c : Config) : Bool :=
  c.pidsFormatted ≤ 1 && c.noExtension ≤ 1 && c.stationNameLong < 2 ^ 32 && c.extensionFm ≤ 3 &&
  c.timeNotLocked ≤ 1 && c.padMin < 2 ^ 32 && 1 ≤ c.blocksPerFrame && c.blocksPerFrame ≤ 2 ^ 16 &&
  32 ≤ c.wAlfn && c.wAlfn ≤ 64 && c.frameBits ≤ 2 ^ 60 - 1

/-- The configuration `State.reset` is constructed with: the open parameters, whatever they are. Where they
fail the check of R10 the unit would be refused before it runs, so a well-formed configuration stands in
their place and only there. DESIGN CHOICE, safe: log entry 1. -/
def Config.installed : Config :=
  if Config.openParameters.wellFormed then Config.openParameters else Config.testInstanceA

/-- A value cut to the W_ALFN bits of the ALFN counter: `v mod 2^W_ALFN` (R18, R65, R98). -/
def Config.alfnWord (c : Config) (v : Nat) : Word64 := BitVec.ofNat 64 (v % 2 ^ c.wAlfn)

end Sys2Proof
end

