-- ==== Sys2Proof/Machine/Rom.lean ====
section
/-! DEFINITION. The block micro-program ROM (spec/41_frame_sequencer.md R60), formed from the configuration. -/

namespace Sys2Proof

/-- The twelve statements of R60, in order. -/
def Config.microStatements (c : Config) : Vector Instr 12 :=
  #v[.bstart,
     .emit 1 (BitVec.ofNat 32 c.pidsFormatted),
     .emit 1 (BitVec.ofNat 32 c.noExtension),
     .emit 32 (BitVec.ofNat 32 c.stationNameLong),
     .name,
     .emit 2 (BitVec.ofNat 32 c.extensionFm),
     .padto (BitVec.ofNat 32 c.padMin),
     .emit 1 (BitVec.ofNat 32 reservedBit),
     .emit 1 (BitVec.ofNat 32 c.timeNotLocked),
     .alfnsl,
     .crc,
     .bend]

/-- ROM[0..11] (R60): the words of the micro-program. -/
def Config.microProgram (c : Config) : Vector Word64 12 := c.microStatements.map encode

end Sys2Proof
end

