-- ==== Sys2Proof/Machine/State.lean ====
section
/-! DEFINITION. The state of the unit (spec/10_state.md, spec/20_memory.md), why a step can stop, and the
state after reset (R27, R98). -/

namespace Sys2Proof.Machine

/-- PHASE (R23). -/
inductive Phase where
  /-- No command executes. -/
  | idle
  /-- An ENCODE executes. -/
  | run
  deriving DecidableEq, Repr

/-- What the host drives with the `rst` event (R25, R98). -/
structure RstInputs where
  /-- `name_in[0..31]`. -/
  nameIn : Vector Byte 32
  /-- `alfn_in`; construction takes it modulo `2^W_ALFN`. -/
  alfnIn : Word64
  deriving DecidableEq, Repr

/-- The output region, the one address space outside the unit (R28): the units that have been written,
as (address, byte) pairs with strictly rising addresses. An unlisted address reads as no value: log entry 5. -/
abbrev Memory := List Host.Cell

/-- The state of the unit: its registers, its stores, its ports, and the output region. -/
structure State where
  /-- The configuration the unit was built with (R8). -/
  cfg : Config
  /-- The block micro-program ROM (R31, R60). -/
  rom : Vector Word64 12
  /-- NAME[0..31] (R17). -/
  name : Vector Byte 32
  /-- ALFN (R18): the low W_ALFN bits. -/
  alfn : Word64
  /-- STATUS (R19). -/
  status : Word64
  /-- CRC, the checksum shift register (R21). -/
  crc : BitVec 16
  /-- BB, the block buffer, in emission order (R22). -/
  bb : List Bool
  /-- UPC, the index of the next micro-op (R23). -/
  upc : BitVec 4
  /-- BLK, the index of the current block within the frame (R23). -/
  blk : BitVec 17
  /-- FRM, the index of the current frame within the request (R23). -/
  frm : BitVec 60
  /-- POS, the output cursor (R23). -/
  pos : BitVec 60
  /-- NREQ, the request length of the running ENCODE (R23). -/
  nreq : BitVec 60
  /-- OUT_BASE, the base of the output region (R23, R28). The platform fixes its width: log entry 4. -/
  outBase : Nat
  /-- PHASE (R23). -/
  phase : Phase
  /-- The output region (R28). -/
  mem : Memory
  /-- Ports `rst`, `name_in`, `alfn_in`: the reset event the host applies now, if any (R25). -/
  rst : Option RstInputs
  /-- Port `cmd`: the command word the host presents and the unit has not accepted (R25, R102). -/
  cmd : Option Word64
  /-- Port `cmd_base`, sampled with `cmd` by an ENCODE (R25, R46). -/
  cmdBase : Nat
  /-- Port `rsp`: the response word of the last command, once it has completed (R25). -/
  rsp : Option Word64
  /-- The MODEL's own field: how many free values the run has taken (log entry 3). -/
  freeCount : Nat
  deriving DecidableEq, Repr

/-- Why the machine stops with a fault. The faults of R85 are no stops: they are effects (`raiseFault`). -/
inductive Fault where
  /-- Raised by `step` when PHASE is RUN and UPC is 12 to 15, where the ROM of twelve words has none
  (R23 gives UPC the range 0..11). Safe: no state that a construction reaches has such a UPC. Log entry 15. -/
  | microFetchOutsideRom (upc : BitVec 4)
  deriving DecidableEq, Repr

/-- Why the model gives a situation no meaning. -/
inductive Refusal where
  /-- The instruction has no meaning yet. No arm of `exec` answers with it. Safe. -/
  | notModelled (mnemonic : String)
  /-- Raised by the two reserved micro-ops (R50: "never in the ROM; a configuration containing it is
  refused"). Safe: no ROM that `powerOn` accepts holds one. Log entry 12. -/
  | reservedMicroOp (mop : BitVec 4)
  /-- Raised by `step` on a ROM word that no row of the opcode table matches (R50). Safe: no ROM that
  `powerOn` accepts holds one. Log entry 12. -/
  | undefinedMicroWord (word : Word64)
  /-- Raised by `step` when the host applies `rst` while an ENCODE executes (R99: "the model gives it no
  move"). Safe: log entry 11. -/
  | resetDuringCommand
  /-- Raised by `powerOn` for a configuration that fails a check of R10 or a ROM that is not R60's. Safe. -/
  | configurationRefused
  deriving DecidableEq, Repr

/-- The unit right after its first construction, with a configuration and a ROM that were fixed before
(R98, R101), an output region in which it has written nothing, and nothing presented on its ports. -/
def State.constructed (c : Config) (rom : Vector Word64 12) (p : RstInputs) : State :=
  { cfg := c, rom := rom, name := p.nameIn, alfn := c.alfnWord p.alfnIn.toNat, status := 0, crc := 0, bb := [],
    upc := 0, blk := 0, frm := 0, pos := 0, nreq := 0, outBase := Config.outBaseAfterReset 0, phase := .idle,
    mem := [], rst := none, cmd := none, cmdBase := 0, rsp := none, freeCount := 1 }

/-- The machine right after reset (R27, R98): constructed with the installed configuration and with what the
host drives on the ports, both without a known value (log entries 1, 2, 3, 6). -/
def State.reset : State :=
  State.constructed Config.installed Config.installed.microProgram ⟨Config.nameIn, Config.alfnIn⟩

end Sys2Proof.Machine
end

