-- ==== Sys2Proof/Machine/Flags.lean ====
section
/-! DEFINITION. STATUS and its fields (spec/10_state.md R19). The unit has no other flag (R24). -/

namespace Sys2Proof.Machine

/-- The bits of STATUS that are not hardwired 0: FAULT (0) and FAULT_CODE (7:4). -/
def statusMask : Word64 := 0xF1

/-- STATUS as it reads: bits 3:1 and 63:8 are hardwired 0 (R19). -/
def statusWord (s : State) : Word64 := s.status &&& statusMask

/-- STATUS.FAULT (R19). -/
def faultFlag (status : Word64) : Bool := status.getLsbD 0

/-- STATUS.FAULT_CODE (R19). -/
def faultCode (status : Word64) : BitVec 4 := status.extractLsb' 4 4

/-- STATUS after a fault of a code (R84): the first fault sets FAULT_CODE and FAULT, a later one changes
nothing. The other bits are hardwired 0. -/
def recordFault (status : Word64) (code : BitVec 4) : Word64 :=
  if faultFlag status then status else 0#56 ++ code ++ 0b0001#4

/-- INVALID_REQUEST_LENGTH (R85). -/
def invalidRequestLength : BitVec 4 := 1

/-- ILLEGAL_COMMAND (R85). -/
def illegalCommand : BitVec 4 := 2

end Sys2Proof.Machine
end

