-- ==== Sys2Proof/Machine/Operands.lean ====
section
/-! DEFINITION. The operand forms: fields serialised MSB first (spec/00_scope.md R13), the output unit of a bit
(spec/20_memory.md R29), the registers as operands, the ALFN slice, the 5-bit alphabet and the checksum
function. -/

namespace Sys2Proof.Machine

/-- The low `w` bits of a value in emission order, most significant first: `v[w-1], …, v[0]` (R13). A bit at or
above the value's own width is 0 (R12). -/
def fieldBits (v : Nat) : Nat → List Bool
  | 0 => []
  | w + 1 => v.testBit w :: fieldBits v w

/-- The output unit of an emitted bit: the bit zero-extended to 8 bits (R29, R70). -/
def unitOf (x : Bool) : Byte := (BitVec.ofBool x).setWidth 8

/-- ALFN as it reads: bits at or above W_ALFN are 0 (R12, R18). -/
def alfnValue (s : State) : Word64 := s.cfg.alfnWord s.alfn.toNat

/-- K, the number of frames of a request of `n` units (R23, R53). -/
def framesOf (c : Config) (n : Nat) : Nat := n / c.frameBits

/-- The 2-bit slice of a counter value for block `b`: `(ALFN >> (2*b)) & 0b11` (R63). -/
def alfnSlice (alfn b : Nat) : Nat := (alfn >>> (2 * b)) &&& 0b11

/-- `CHARMAP(c)`: the 5-bit code of a name byte (R73). -/
def charMap (ch : Byte) : BitVec 5 :=
  let c := ch.toNat
  if 0x41 ≤ c ∧ c ≤ 0x5A then BitVec.ofNat 5 (c - 0x41)
  else if 0x61 ≤ c ∧ c ≤ 0x7A then BitVec.ofNat 5 (c - 0x61)
  else if c = 0x3F then 27
  else if c = 0x2D then 28
  else if c = 0x2A then 29
  else if c = 0x24 then 30
  else 26

/-- The five bits of one name character (R75). -/
def charBits (ch : Byte) : List Bool := fieldBits (charMap ch).toNat wChar

/-- The bits of the whole station name, characters 0 to 31 in order (R75). -/
def nameBits (name : Vector Byte 32) : List Bool := name.toList.flatMap charBits

/-- One data round of the checksum register: shift right, inject the bit at bit 15, XOR the mask when the bit
shifted out was 1 (R79). -/
def crcRound (r : BitVec 16) (x : Bool) : BitVec 16 :=
  let shifted := (r >>> 1) ||| ((BitVec.ofBool x).setWidth 16 <<< 15)
  if r.getLsbD 0 then shifted ^^^ crcPoly else shifted

/-- One flush round: shift right with no input bit, XOR the mask when the bit shifted out was 1 (R79). -/
def crcFlushRound (r : BitVec 16) : BitVec 16 :=
  if r.getLsbD 0 then (r >>> 1) ^^^ crcPoly else r >>> 1

/-- `k` flush rounds. -/
def crcFlush : Nat → BitVec 16 → BitVec 16
  | 0, r => r
  | k + 1, r => crcFlush k (crcFlushRound r)

/-- The checksum register after a bit sequence has been processed in reverse of emission order and flushed
(R79). -/
def crcRegister (d : List Bool) : BitVec 16 :=
  crcFlush crcFlushRounds (d.reverse.foldl crcRound crcInit)

/-- What a final register gives as checksum: the low 12 bits of `register XOR 0x955` (R79). -/
def crcOutput (r : BitVec 16) : BitVec 12 := (r ^^^ crcXorOut).extractLsb' 0 12

/-- `CRC12(d)` (R79). -/
def crc12 (d : List Bool) : BitVec 12 := crcOutput (crcRegister d)

end Sys2Proof.Machine
end

