-- ==== Sys2Proof/Machine/Ops.lean ====
section
/-! DEFINITION. The named operations: the output region, EmitBit, responses, raising a fault, accepting a
command, reset, powering on, and the frame loop of an ENCODE. -/

namespace Sys2Proof.Machine

/-- The unit at an address, or no value where nothing has been written (log entry 5). Only the host reads the
region (R30). -/
def Memory.read : Memory → Nat → Option Byte
  | [], _ => none
  | (a, v) :: m, x => if x = a then some v else Memory.read m x

/-- `MemWrite(address, 1, v)` (R28), in the canonical order. -/
def Memory.write : Memory → Nat → Byte → Memory
  | [], x, v => [(x, v)]
  | (a, u) :: m, x, v =>
    if x < a then (x, v) :: (a, u) :: m
    else if x = a then (x, v) :: m
    else (a, u) :: Memory.write m x v

/-- The canonical form: addresses strictly rising. (An unlisted address reads as no value, so no entry can
equal what it reads as.) -/
def Memory.wf : Memory → Bool
  | [] => true
  | (a, _) :: m => m.all (fun cell => a < cell.1) && Memory.wf m

/-- The unit of the output region at an address. -/
def unitAt (s : State) (a : Nat) : Option Byte := Memory.read s.mem a

/-- The address of the next output unit, `OUT_BASE + POS` (R28, R70). -/
def outAddress (s : State) : Nat := s.outBase + s.pos.toNat

/-- `EmitBit(x)` (R70). -/
def emitBit (s : State) (x : Bool) : State :=
  { s with mem := Memory.write s.mem (outAddress s) (unitOf x), bb := s.bb ++ [x], pos := s.pos + 1 }

/-- `EmitBit` of each bit in order. -/
def emitBits (s : State) (xs : List Bool) : State := xs.foldl emitBit s

/-- `UPC <- UPC + 1`, the end of every micro-op but BEND (R61). -/
def advance (s : State) : State := { s with upc := s.upc + 1 }

/-- `respond(v)`: the response word of the command, on port `rsp` (R14, R25). -/
def respond (s : State) (v : Word64) : State := { s with rsp := some v }

/-- `raise Fault(code)` (R84): STATUS records the first fault, PHASE becomes IDLE, the response is 0. The unit
saves no program counter, changes no mode and enters no handler (R84, R89), and there is no return (R90). -/
def raiseFault (s : State) (code : BitVec 4) : State :=
  respond { s with status := recordFault s.status code, phase := .idle } 0

/-- The unit accepts the command on its port (R102): the port is free again, and there is no response until the
command completes (log entry 6). -/
def acceptCommand (s : State) : State := { s with cmd := none, rsp := none }

/-- `RunFrame` begins: `BLK <- 0; UPC <- 0` (R61). -/
def beginFrame (s : State) : State := { s with blk := 0, upc := 0 }

/-- An ENCODE of `n` units begins (R53): `OUT_BASE <- cmd_base; NREQ <- N; POS <- 0; PHASE <- RUN`. -/
def beginEncode (s : State) (n : BitVec 60) : State :=
  { s with outBase := s.cmdBase, nreq := n, pos := 0, phase := .run }

/-- An ENCODE ends (R53): `PHASE <- IDLE; respond(N)`. -/
def finishEncode (s : State) : State := respond { s with phase := .idle } (s.nreq.setWidth 64)

/-- Control returns to ENCODE's frame loop, `for FRM = 0 to K-1` (R53, R64): the next frame begins, or the
ENCODE ends. -/
def nextFrame (s : State) : State :=
  if s.frm.toNat + 1 < framesOf s.cfg s.nreq.toNat then beginFrame { s with frm := s.frm + 1 }
  else finishEncode s

/-- `ALFN <- (ALFN + 1) mod 2^W_ALFN` (R65). -/
def stepAlfn (s : State) : State := { s with alfn := s.cfg.alfnWord (s.alfn.toNat + 1) }

/-- The `rst` event (R98). OUT_BASE becomes unspecified (R27): a free value (log entry 3). The output region,
the ROM and the configuration stay; the event is over; there is no response on `rsp` (log entry 6). -/
def construct (s : State) (p : RstInputs) : State :=
  { s with
    name := p.nameIn, alfn := s.cfg.alfnWord p.alfnIn.toNat, status := 0, phase := .idle, upc := 0, blk := 0,
    frm := 0, pos := 0, nreq := 0, crc := 0, bb := [], outBase := Config.outBaseAfterReset s.freeCount,
    freeCount := s.freeCount + 1, rst := none, rsp := none }

/-- Powering on (R101): the configuration is fixed, then the first construction happens. A configuration that
fails a check of R10, or a ROM that is not exactly the one R60 forms from it, is refused before the unit runs
(R10, R50, R60, R86). -/
def powerOn (c : Config) (rom : Vector Word64 12) (p : RstInputs) : Host.Outcome State Fault Refusal :=
  if c.wellFormed && rom == c.microProgram then .next (State.constructed c rom p)
  else .refused .configurationRefused

/-- The host presents a command word, with the base of the output region (R25). R102 says only that a presented command
is held until the unit is idle, not what a second one does meanwhile. DESIGN CHOICE, unsafe: the port holds one
command, and the second replaces the first, word and base. Log entry 21. -/
def presentCommand (s : State) (w : Word64) (base : Nat) : State := { s with cmd := some w, cmdBase := base }

/-- The host applies the `rst` event (R25). -/
def presentReset (s : State) (p : RstInputs) : State := { s with rst := some p }

end Sys2Proof.Machine
end

