-- ==== Sys2Proof/Machine/BitWriter.lean ====
section
/-! DEFINITION. The meanings of EMIT and PADTO (spec/42_bit_writer.md). -/

namespace Sys2Proof.Machine

/-- EMIT (R71): the low W bits of IMM, MSB first. -/
def execEmit (w : BitVec 6) (imm : BitVec 32) (s : State) : Host.Outcome State Fault Refusal :=
  .next (advance (emitBits s (fieldBits imm.toNat w.toNat)))

/-- The zero bits PADTO emits: as many as the running block length lacks to IMM, none where it lacks none
(R72). -/
def paddingBits (imm : BitVec 32) (blen : Nat) : List Bool := List.replicate (imm.toNat - blen) padBit

/-- PADTO (R72). -/
def execPadto (imm : BitVec 32) (s : State) : Host.Outcome State Fault Refusal :=
  .next (advance (emitBits s (paddingBits imm s.bb.length)))

end Sys2Proof.Machine
end

