-- ==== Sys2Proof/Machine/Checksum.lean ====
section
/-! DEFINITION. The meaning of CRC (spec/44_checksum.md). -/

namespace Sys2Proof.Machine

/-- CRC (R80): the register runs over the block buffer, then the low 12 bits of `register XOR 0x955` are
emitted, MSB first. The register keeps its value before that XOR (log entry 13). -/
def execCrc (s : State) : Host.Outcome State Fault Refusal :=
  let s' := { s with crc := crcRegister s.bb }
  .next (advance (emitBits s' (fieldBits (crcOutput s'.crc).toNat wCrc)))

end Sys2Proof.Machine
end

