-- ==== Sys2Proof/Machine/HostCommands.lean ====
section
/-! DEFINITION. The meanings of the host commands (spec/40_host_commands.md). -/

namespace Sys2Proof.Machine

/-- NOP (R55). -/
def execNop (s : State) : Host.Outcome State Fault Refusal := .next (respond s 0)

/-- ENCODE (R53): the length check comes before any write. A request of at least one frame begins here and is
carried out by the micro-ops that follow (R61, R64); a request of no frame ends at once. A length that passes the
check is a multiple of FRAME_BITS, so it has no frame exactly when N = 0 (R53, first corner case). -/
def execEncode (n : BitVec 60) (s : State) : Host.Outcome State Fault Refusal :=
  if n.toNat % s.cfg.frameBits ≠ 0 then .next (raiseFault s invalidRequestLength)
  else if n = 0 then .next (finishEncode (beginEncode s n))
  else .next (beginFrame { beginEncode s n with frm := 0 })

/-- READ_ALFN (R56). -/
def execReadAlfn (s : State) : Host.Outcome State Fault Refusal := .next (respond s (alfnValue s))

/-- READ_STATUS (R57). -/
def execReadStatus (s : State) : Host.Outcome State Fault Refusal := .next (respond s (statusWord s))

/-- FRAME_BITS_REG (R20): FRAME_BITS zero-extended to 64 bits. -/
def frameBitsReg (s : State) : Word64 := BitVec.ofNat 64 s.cfg.frameBits

/-- READ_FRAME_BITS (R58). -/
def execReadFrameBits (s : State) : Host.Outcome State Fault Refusal := .next (respond s (frameBitsReg s))

/-- NOP with a nonzero ARG (R55). -/
def execIllegalNopArg (s : State) : Host.Outcome State Fault Refusal := .next (raiseFault s illegalCommand)

/-- READ_ALFN with a nonzero ARG (R56). -/
def execIllegalReadAlfnArg (s : State) : Host.Outcome State Fault Refusal := .next (raiseFault s illegalCommand)

/-- READ_STATUS with a nonzero ARG (R57). -/
def execIllegalReadStatusArg (s : State) : Host.Outcome State Fault Refusal := .next (raiseFault s illegalCommand)

/-- READ_FRAME_BITS with a nonzero ARG (R58). -/
def execIllegalReadFrameBitsArg (s : State) : Host.Outcome State Fault Refusal :=
  .next (raiseFault s illegalCommand)

/-- OP 0x5 (R59). -/
def execReservedCmd5 (s : State) : Host.Outcome State Fault Refusal := .next (raiseFault s illegalCommand)

/-- OP 0x6 and 0x7 (R59). -/
def execReservedCmd6to7 (s : State) : Host.Outcome State Fault Refusal := .next (raiseFault s illegalCommand)

/-- OP 0x8 to 0xF (R59). -/
def execReservedCmd8toF (s : State) : Host.Outcome State Fault Refusal := .next (raiseFault s illegalCommand)

end Sys2Proof.Machine
end

