-- ==== Sys2Proof/Machine/NameCodec.lean ====
section
/-! DEFINITION. The meaning of NAME (spec/43_name_codec.md). -/

namespace Sys2Proof.Machine

/-- NAME (R75): the 32 five-bit codes of the station name. -/
def execName (s : State) : Host.Outcome State Fault Refusal :=
  .next (advance (emitBits s (nameBits s.name)))

end Sys2Proof.Machine
end

