-- ==== Sys2Proof/Machine/Sequencer.lean ====
section
/-! DEFINITION. The meanings of BSTART, ALFNSL and BEND (spec/41_frame_sequencer.md), and of the reserved
micro-ops (spec/30_encoding.md R50). -/

namespace Sys2Proof.Machine

/-- BSTART (R62). -/
def execBstart (s : State) : Host.Outcome State Fault Refusal := .next (advance { s with bb := [] })

/-- ALFNSL (R63): the two bits of the slice of ALFN for block BLK, MSB first. -/
def execAlfnsl (s : State) : Host.Outcome State Fault Refusal :=
  .next (advance (emitBits s (fieldBits (alfnSlice (alfnValue s).toNat s.blk.toNat) wSlice)))

/-- BEND (R64): at the last block of the frame ALFN advances and control returns to ENCODE's frame loop;
elsewhere the next block starts. -/
def execBend (s : State) : Host.Outcome State Fault Refusal :=
  if s.blk.toNat = s.cfg.blocksPerFrame - 1 then .next (nextFrame { stepAlfn s with blk := 0 })
  else .next { s with blk := s.blk + 1, upc := 0 }

/-- MOP 0x7 (R50): "never in the ROM; a configuration containing it is refused". -/
def execReservedMicro7 (_s : State) : Host.Outcome State Fault Refusal := .refused (.reservedMicroOp 0x7)

/-- MOP 0x8 to 0xF (R50): "never in the ROM; a configuration containing it is refused". -/
def execReservedMicro8toF (rest : BitVec 63) (_s : State) : Host.Outcome State Fault Refusal :=
  .refused (.reservedMicroOp (opField (encode (.reservedMicro8toF rest))))

end Sys2Proof.Machine
end

