-- ==== Sys2Proof/Machine/Dispatch.lean ====
section
/-! DEFINITION. One arm per instruction. -/

namespace Sys2Proof.Machine

def exec (i : Instr) (s : State) : Host.Outcome State Fault Refusal :=
  match i with
  -- FOX-CMD v1
  | .nop => Sys2Proof.Machine.execNop s
  | .encode n => Sys2Proof.Machine.execEncode n s
  | .readAlfn => Sys2Proof.Machine.execReadAlfn s
  | .readStatus => Sys2Proof.Machine.execReadStatus s
  | .readFrameBits => Sys2Proof.Machine.execReadFrameBits s
  | .illegalNopArg _ => Sys2Proof.Machine.execIllegalNopArg s
  | .illegalReadAlfnArg _ => Sys2Proof.Machine.execIllegalReadAlfnArg s
  | .illegalReadStatusArg _ => Sys2Proof.Machine.execIllegalReadStatusArg s
  | .illegalReadFrameBitsArg _ => Sys2Proof.Machine.execIllegalReadFrameBitsArg s
  | .reservedCmd5 _ => Sys2Proof.Machine.execReservedCmd5 s
  | .reservedCmd6to7 _ => Sys2Proof.Machine.execReservedCmd6to7 s
  | .reservedCmd8toF _ => Sys2Proof.Machine.execReservedCmd8toF s
  -- FOX-MICRO v1
  | .bstart => Sys2Proof.Machine.execBstart s
  | .emit w imm => Sys2Proof.Machine.execEmit w imm s
  | .name => Sys2Proof.Machine.execName s
  | .padto imm => Sys2Proof.Machine.execPadto imm s
  | .alfnsl => Sys2Proof.Machine.execAlfnsl s
  | .crc => Sys2Proof.Machine.execCrc s
  | .bend => Sys2Proof.Machine.execBend s
  | .reservedMicro7 _ => Sys2Proof.Machine.execReservedMicro7 s
  | .reservedMicro8toF rest => Sys2Proof.Machine.execReservedMicro8toF rest s

end Sys2Proof.Machine
end

