-- ==== Sys2Proof/Machine/Fetch.lean ====
section
/-! DEFINITION. Where the next word comes from (spec/41_frame_sequencer.md R61, spec/70_reset_and_hazards.md R102). -/

namespace Sys2Proof.Machine

/-- `w <- ROM[UPC]` (R61); none where the ROM of twelve words has no word. -/
def fetchMicro (s : State) : Option Word64 := s.rom[s.upc.toNat]?

end Sys2Proof.Machine
end

