-- ==== Sys2Proof/Machine/Step.lean ====
section
/-! DEFINITION. One step of the unit, runs of steps, and where a word is put so that the next step runs it. -/

namespace Sys2Proof.Machine

/-- One micro-op of a running ENCODE (R61): the word ROM[UPC], decoded, executed. -/
def stepMicro (s : State) : Host.Outcome State Fault Refusal :=
  match fetchMicro s with
  | none => .fault (.microFetchOutsideRom s.upc)
  | some w =>
    match decodeMicro w with
    | .ok i => exec i s
    | .error _ => .refused (.undefinedMicroWord w)

/-- One step between commands: the command on the port is accepted and executed (R102); with none presented the
unit is idle and keeps all its state (R97). -/
def stepIdle (s : State) : Host.Outcome State Fault Refusal :=
  match s.cmd with
  | none => .next s
  | some w => exec (decodeCommand w) (acceptCommand s)

/-- One step: the `rst` event between commands (R98, R99), one micro-op while an ENCODE runs, during which a
command presented is held (R102), or a command. `rst` during an ENCODE has no move (R99): log entry 11. -/
def step (s : State) : Host.Outcome State Fault Refusal :=
  match s.phase, s.rst with
  | .idle, some p => .next (construct s p)
  | .run, some _ => .refused .resetDuringCommand
  | .idle, none => stepIdle s
  | .run, none => stepMicro s

/-- `n` steps, stopping at the first fault or refusal. It only iterates `step`: a command that faults is a step like
any other here, and which runs count as failed (R84) is `runVerdict` of Machine/Runs.lean. -/
def runSteps : Nat → State → Host.Outcome State Fault Refusal
  | 0, s => .next s
  | n + 1, s =>
    match step s with
    | .next t => runSteps n t
    | .fault r => .fault r
    | .refused r => .refused r

/-- The state with one instruction word where `step` fetches its next instruction: on port `cmd` between
commands, in ROM[UPC] while an ENCODE runs. No reset event is applied in its place. Log entry 10. -/
def State.withFetchWord (s : State) (nbits w : Nat) : State :=
  let word : Word64 := BitVec.ofNat 64 (w % 2 ^ nbits)
  match s.phase with
  | .idle => { s with cmd := some word, rst := none }
  | .run =>
    let upc : BitVec 4 := if s.upc.toNat < 12 then s.upc else 0
    { s with rom := s.rom.setIfInBounds upc.toNat word, upc := upc, rst := none }

end Sys2Proof.Machine
end

