-- ==== Sys2Proof/Machine/Assembler.lean ====
section
/-! DEFINITION. The assembler syntax of spec/30_encoding.md R52: its statements, the words they stand for, and
the reading of one line of text. -/

namespace Sys2Proof.Machine

/-- A statement of the assembler syntax, with its operands as they are written (R52). -/
inductive Statement where
  | nop
  | encode (n : Nat)
  | readAlfn
  | readStatus
  | readFrameBits
  /-- `construct "<32 chars>", A`: the `rst` event, not a command word. -/
  | construct (name : Vector Byte 32) (a : Nat)
  /-- `encode_frames K`. -/
  | encodeFrames (k : Nat)
  /-- `.word V`: the raw command word. -/
  | word (v : Nat)
  | bstart
  | emit (w imm : Nat)
  | name
  | padto (imm : Nat)
  | alfnsl
  | crc
  | bend
  /-- `emit_bit V`. -/
  | emitBit (v : Nat)
  deriving DecidableEq, Repr

/-- What a statement stands for. -/
inductive Assembled where
  /-- A word for port `cmd`. -/
  | command (w : Word64)
  /-- A word of the micro-program. -/
  | micro (w : Word64)
  /-- The `rst` event. -/
  | rst (p : RstInputs)
  deriving DecidableEq, Repr

/-- `encode N`, for N below 2^60 (R52). -/
def assembleEncode (n : Nat) : Option Assembled :=
  if n < 2 ^ 60 then some (.command (encode (.encode (BitVec.ofNat 60 n)))) else none

/-- `emit W, IMM`, for a W and an IMM that fit their fields (R48, R52). -/
def assembleEmit (w imm : Nat) : Option Assembled :=
  if w < 64 ∧ imm < 2 ^ 32 then some (.micro (encode (.emit (BitVec.ofNat 6 w) (BitVec.ofNat 32 imm)))) else none

/-- The word or the event of a statement (R52); none where an operand does not fit. -/
def assemble (c : Config) : Statement → Option Assembled
  | .nop => some (.command (encode .nop))
  | .encode n => assembleEncode n
  | .readAlfn => some (.command (encode .readAlfn))
  | .readStatus => some (.command (encode .readStatus))
  | .readFrameBits => some (.command (encode .readFrameBits))
  | .construct name a => some (.rst ⟨name, c.alfnWord a⟩)
  | .encodeFrames k => assembleEncode (k * c.frameBits)
  | .word v => if v < 2 ^ 64 then some (.command (BitVec.ofNat 64 v)) else none
  | .bstart => some (.micro (encode .bstart))
  | .emit w imm => assembleEmit w imm
  | .name => some (.micro (encode .name))
  | .padto imm => if imm < 2 ^ 32 then some (.micro (encode (.padto (BitVec.ofNat 32 imm)))) else none
  | .alfnsl => some (.micro (encode .alfnsl))
  | .crc => some (.micro (encode .crc))
  | .bend => some (.micro (encode .bend))
  | .emitBit v => assembleEmit 1 v

/-- The value of a digit in a base up to 16. -/
def digitValue (base : Nat) (ch : Char) : Option Nat :=
  let n := ch.toNat
  let v := if 48 ≤ n ∧ n ≤ 57 then n - 48 else if 65 ≤ n ∧ n ≤ 70 then n - 55
    else if 97 ≤ n ∧ n ≤ 102 then n - 87 else base
  if v < base then some v else none

/-- The value of a string of digits, after the value read so far. -/
def digitsValue (base : Nat) : List Char → Nat → Option Nat
  | [], acc => some acc
  | ch :: rest, acc =>
    match digitValue base ch with
    | some d => digitsValue base rest (acc * base + d)
    | none => none

/-- "a decimal or `0x` number": the forms R52 gives for the N of `encode`. -/
def numberValue : List Char → Option Nat
  | [] => none
  | '0' :: 'x' :: ch :: rest => digitsValue 16 (ch :: rest) 0
  | ch :: rest => digitsValue 10 (ch :: rest) 0

/-- An operand other than that N: W, IMM, K, V or A. R52 does not give their number forms. DESIGN CHOICE: a decimal,
`0x` or `0b` number, the last as R12 writes binary literals and as R71's example `emit 2, 0b01` has it. Log
entry 19. -/
def operandValue : List Char → Option Nat
  | '0' :: 'b' :: ch :: rest => digitsValue 2 (ch :: rest) 0
  | cs => numberValue cs

/-- The characters before the first one that is `stop`, and those after it. -/
def splitAtChar (stop : Char) : List Char → List Char × List Char
  | [] => ([], [])
  | ch :: rest =>
    if ch = stop then ([], rest) else ((ch :: (splitAtChar stop rest).1), (splitAtChar stop rest).2)

/-- The text without its leading blanks. -/
def dropBlanks : List Char → List Char
  | ' ' :: rest => dropBlanks rest
  | cs => cs

/-- The text without the blanks around it. -/
def trimBlanks (cs : List Char) : List Char := (dropBlanks (dropBlanks cs).reverse).reverse

/-- A quoted name of 32 characters, each one byte, and the text after it (R52). R52 does not say how a name byte
0x22, the quote itself, is written. DESIGN CHOICE: the name ends at the first quote and there is no escape, so this
text cannot write such a name; the statement `construct` and the `rst` event take it. Log entry 19. -/
def quotedName : List Char → Option (Vector Byte 32 × List Char)
  | '"' :: rest =>
    let chars := (splitAtChar '"' rest).1
    let bytes := chars.map fun ch => BitVec.ofNat 8 ch.toNat
    if h : bytes.length = 32 then
      if chars.all (fun ch => ch.toNat < 256) then
        some (⟨bytes.toArray, by simpa using h⟩, (splitAtChar '"' rest).2)
      else none
    else none
  | _ => none

/-- `construct "<32 chars>", A`, after the mnemonic. -/
def constructOperands (cs : List Char) : Option Statement :=
  match quotedName (trimBlanks cs) with
  | some (name, rest) =>
    match trimBlanks rest with
    | ',' :: a => (operandValue (trimBlanks a)).map (.construct name)
    | _ => none
  | none => none

/-- `emit W, IMM`, after the mnemonic. -/
def emitOperands (cs : List Char) : Option Statement :=
  match operandValue (trimBlanks (splitAtChar ',' cs).1), operandValue (trimBlanks (splitAtChar ',' cs).2) with
  | some w, some imm => some (.emit w imm)
  | _, _ => none

/-- The statement of one line: its mnemonic, then its operands (R52: "one statement per line"). -/
def readLine (line : List Char) : Option Statement :=
  let text := trimBlanks line
  let mnemonic := (splitAtChar ' ' text).1
  let operands := trimBlanks (splitAtChar ' ' text).2
  let plain (st : Statement) : Option Statement := if operands = [] then some st else none
  if mnemonic = "nop".toList then plain .nop
  else if mnemonic = "encode".toList then (numberValue operands).map .encode
  else if mnemonic = "read_alfn".toList then plain .readAlfn
  else if mnemonic = "read_status".toList then plain .readStatus
  else if mnemonic = "read_frame_bits".toList then plain .readFrameBits
  else if mnemonic = "construct".toList then constructOperands operands
  else if mnemonic = "encode_frames".toList then (operandValue operands).map .encodeFrames
  else if mnemonic = ".word".toList then (operandValue operands).map .word
  else if mnemonic = "bstart".toList then plain .bstart
  else if mnemonic = "emit".toList then emitOperands operands
  else if mnemonic = "name".toList then plain .name
  else if mnemonic = "padto".toList then (operandValue operands).map .padto
  else if mnemonic = "alfnsl".toList then plain .alfnsl
  else if mnemonic = "crc".toList then plain .crc
  else if mnemonic = "bend".toList then plain .bend
  else if mnemonic = "emit_bit".toList then (operandValue operands).map .emitBit
  else none

end Sys2Proof.Machine
end

