-- ==== Sys2Proof/Machine/Runs.lean ====
section
/-! DEFINITION. Runs in which the host acts between the steps (spec/10_state.md R25), and which of them are failed
runs (spec/60_exceptions.md R84). -/

namespace Sys2Proof.Machine

/-- What the host does on the ports before a step (R25). -/
inductive HostAction where
  /-- It presents nothing new. -/
  | wait
  /-- It presents a command word, with the base of the output region. -/
  | command (w : Word64) (base : Nat)
  /-- It applies the `rst` event. -/
  | reset (p : RstInputs)
  deriving DecidableEq, Repr

/-- The state with the host's action on its ports. -/
def HostAction.apply (a : HostAction) (s : State) : State :=
  match a with
  | .wait => s
  | .command w base => presentCommand s w base
  | .reset p => presentReset s p

/-- The fault a host command raises (R85, R87): INVALID_REQUEST_LENGTH by an ENCODE whose length is no multiple of
FRAME_BITS, ILLEGAL_COMMAND by a reserved opcode or a nonzero ARG, none by the others. A micro-op raises none
(R86). -/
def raises (c : Config) : Instr → Option (BitVec 4)
  | .encode n => if n.toNat % c.frameBits = 0 then none else some 1
  | .illegalNopArg _ => some 2
  | .illegalReadAlfnArg _ => some 2
  | .illegalReadStatusArg _ => some 2
  | .illegalReadFrameBitsArg _ => some 2
  | .reservedCmd5 _ => some 2
  | .reservedCmd6to7 _ => some 2
  | .reservedCmd8toF _ => some 2
  | .nop => none
  | .readAlfn => none
  | .readStatus => none
  | .readFrameBits => none
  | .bstart => none
  | .emit _ _ => none
  | .name => none
  | .padto _ => none
  | .alfnsl => none
  | .crc => none
  | .bend => none
  | .reservedMicro7 _ => none
  | .reservedMicro8toF _ => none

/-- The fault the next step raises, if any: the fault of the command it accepts (R87, R102). -/
def stepRaises (s : State) : Option (BitVec 4) :=
  match s.phase, s.rst, s.cmd with
  | .idle, none, some w => raises s.cfg (decodeCommand w)
  | .idle, none, none => none
  | .idle, some _, _ => none
  | .run, _, _ => none

/-- One step after each action of the host, stopping at the first stop. A command that faults ends in a next state and
the run goes on, since the unit executes later commands normally (R59, R90); whether the run counts as one that
succeeded is `runVerdict`. -/
def runHost : List HostAction → State → Host.Outcome State Fault Refusal
  | [], s => .next s
  | a :: as, s =>
    match step (a.apply s) with
    | .next t => runHost as t
    | .fault r => .fault r
    | .refused r => .refused r

/-- Some command of the run faults. -/
def runRaises : List HostAction → State → Bool
  | [], _ => false
  | a :: as, s =>
    (stepRaises (a.apply s)).isSome ||
      match step (a.apply s) with
      | .next t => runRaises as t
      | .fault _ => false
      | .refused _ => false

/-- How a run counts. -/
inductive RunVerdict where
  /-- No command faults, and the run ends in the state. -/
  | succeeded (t : State)
  /-- Some command faults (R84). -/
  | failed
  /-- No command faults, and the run stops at a state that has no move. -/
  | stopped
  deriving DecidableEq, Repr

/-- "A model should treat a run in which any command faults as a failed run" (R84, fourth point). -/
def runVerdict (as : List HostAction) (s : State) : RunVerdict :=
  if runRaises as s then .failed
  else
    match runHost as s with
    | .next t => .succeeded t
    | .fault _ => .stopped
    | .refused _ => .stopped

end Sys2Proof.Machine
end

