-- ==== Sys2Proof/Safety.lean ====
section
/-! DEFINITION. The terms the statements use: the output record of spec/30_encoding.md R43 and R44, what one
micro-op emits, where a running ENCODE stands, the invariant of the machine, and what a receiver checks. -/

namespace Sys2Proof

open Sys2Proof.Machine

/-! ### The output record (R43, R44), written from the field table and not from the micro-program -/

/-- The fields at offsets 0 to 195 of a block: the two flags, the type tag, the 32 name codes, the extension
tag (R43, R76). -/
def Record.head (c : Config) (name : Vector Byte 32) : List Bool :=
  fieldBits c.pidsFormatted wFlag ++ fieldBits c.noExtension wFlag ++ fieldBits c.stationNameLong wType ++
    nameBits name ++ fieldBits c.extensionFm wExt

/-- The bits the checksum of block `b` covers, offsets 0 to PAYLOAD_BITS+3: head, padding, reserved bit, time bit
and the slice `ALFN[2b+1]`, `ALFN[2b]` (R43). -/
def Record.data (c : Config) (name : Vector Byte 32) (alfn b : Nat) : List Bool :=
  Record.head c name ++ List.replicate (c.payloadBits - headBits) padBit ++ fieldBits reservedBit wFlag ++
    fieldBits c.timeNotLocked wFlag ++ [alfn.testBit (2 * b + 1), alfn.testBit (2 * b)]

/-- Block `b` of a frame with a counter value (R43). -/
def Record.block (c : Config) (name : Vector Byte 32) (alfn b : Nat) : List Bool :=
  Record.data c name alfn b ++ fieldBits (crc12 (Record.data c name alfn b)).toNat wCrc

/-- A frame: its blocks laid end to end, block 0 first (R44). -/
def Record.frame (c : Config) (name : Vector Byte 32) (alfn : Nat) : List Bool :=
  (List.range c.blocksPerFrame).flatMap (Record.block c name alfn)

/-- The output of an ENCODE of `k` frames from the counter value `alfn0`: frame f carries
`(ALFN0 + f) mod 2^W_ALFN` (R44). -/
def Record.output (c : Config) (name : Vector Byte 32) (alfn0 k : Nat) : List Bool :=
  (List.range k).flatMap fun f => Record.frame c name ((alfn0 + f) % 2 ^ c.wAlfn)

/-! ### What a receiver checks (R67, R78, R83) -/

/-- What `DECODE` answers (R78). -/
inductive Receiver.Glyph where
  | char (ch : Byte)
  /-- "a character outside the alphabet". -/
  | outside
  /-- Code 31, "which no block carries". -/
  | reserved
  deriving DecidableEq, Repr

/-- `DECODE(code)` (R78), a test helper and no function of the hardware. -/
def Receiver.decodeCode (code : BitVec 5) : Receiver.Glyph :=
  if code.toNat ≤ 25 then .char (BitVec.ofNat 8 (0x41 + code.toNat))
  else if code = 26 then .outside
  else if code = 27 then .char 0x3F
  else if code = 28 then .char 0x2D
  else if code = 29 then .char 0x2A
  else if code = 30 then .char 0x24
  else .reserved

/-- The upper-case form of a byte: only the ASCII letters fold (R73, R78). -/
def Receiver.upperCase (ch : Byte) : Byte := if 0x61 ≤ ch.toNat ∧ ch.toNat ≤ 0x7A then ch - 0x20 else ch

/-- The byte is in the alphabet of R73: a letter, `?`, `-`, `*` or `$`. -/
def Receiver.inAlphabet (ch : Byte) : Bool :=
  (0x41 ≤ ch.toNat && ch.toNat ≤ 0x5A) || (0x61 ≤ ch.toNat && ch.toNat ≤ 0x7A) ||
    ch == 0x3F || ch == 0x2D || ch == 0x2A || ch == 0x24

/-- The bits a receiver reads from `n` units at an address, or none where a unit is no bit. -/
def Receiver.bitsAt (s : State) (base : Nat) : Nat → Option (List Bool)
  | 0 => some []
  | n + 1 =>
    match unitAt s base, Receiver.bitsAt s (base + 1) n with
    | some v, some rest => if v = 0 then some (false :: rest) else if v = 1 then some (true :: rest) else none
    | _, _ => none

/-- A block verifies: CRC12 of its first CRC_DATA_BITS bits equals its last 12 bits, read MSB first (R83). -/
def Receiver.verifies (c : Config) (block : List Bool) : Bool :=
  block.drop c.crcDataBits == fieldBits (crc12 (block.take c.crcDataBits)).toNat wCrc

/-- The number made of the slices of blocks `n − 1` down to 0, concatenated (R67). -/
def Receiver.joinSlices (slice : Nat → Nat) : Nat → Nat
  | 0 => 0
  | n + 1 => slice n * 4 ^ n + Receiver.joinSlices slice n

namespace Machine

/-! ### One micro-op -/

/-- What a micro-op that emits the bits `xs` does and does not do (R61, R70): the units from
`OUT_BASE + POS` on hold the bits, every other unit is as before; BB grows by the bits, POS by their number, UPC
by one; nothing else changes. -/
structure Emitted (s t : State) (xs : List Bool) : Prop where
  units : ∀ i (h : i < xs.length), unitAt t (outAddress s + i) = some (unitOf xs[i])
  others : ∀ a, (a < outAddress s ∨ outAddress s + xs.length ≤ a) → unitAt t a = unitAt s a
  rest : t = { s with mem := t.mem, bb := s.bb ++ xs, pos := s.pos + BitVec.ofNat 60 xs.length, upc := s.upc + 1 }

/-! ### A running ENCODE -/

/-- How many bits of a block the micro-ops before UPC emit (R60, R68). -/
def bitsBefore (c : Config) : Nat → Nat
  | 0 => 0
  | 1 => 0
  | 2 => 1
  | 3 => 2
  | 4 => 34
  | 5 => 194
  | 6 => headBits
  | 7 => c.payloadBits
  | 8 => c.payloadBits + 1
  | 9 => c.payloadBits + 2
  | 10 => c.crcDataBits
  | _ => c.blockBits

/-- The output index of the first bit of the current block (R62, R68). -/
def blockStart (s : State) : Nat := (s.frm.toNat * s.cfg.blocksPerFrame + s.blk.toNat) * s.cfg.blockBits

/-- Where a running ENCODE stands: a request of whole frames, FRM in 0..K−1 (R23), the cursor where R68 puts it,
and a block buffer with the bits of the current block. -/
structure RunPosition (s : State) : Prop where
  whole : s.nreq.toNat % s.cfg.frameBits = 0
  frame : s.frm.toNat < framesOf s.cfg s.nreq.toNat
  cursor : s.pos.toNat = blockStart s + bitsBefore s.cfg s.upc.toNat
  buffer : s.upc ≠ 0 → s.bb.length = bitsBefore s.cfg s.upc.toNat

/-- The micro-ops an ENCODE has still to execute (R69). -/
def microOpsLeft (s : State) : Nat :=
  match s.phase with
  | .idle => 0
  | .run =>
    12 * ((framesOf s.cfg s.nreq.toNat - s.frm.toNat) * s.cfg.blocksPerFrame - s.blk.toNat) - s.upc.toNat

/-! ### The invariant -/

/-- The legal values of STATUS (R19): no fault, or FAULT with the code 1 or 2. -/
def legalStatus (status : Word64) : Prop := status = 0 ∨ status = 0x11 ∨ status = 0x21

/-- What holds of every state a construction reaches: the configuration is well formed (R10), the ROM is the
micro-program (R60), the memory is in canonical form, STATUS is legal (R19), ALFN has W_ALFN bits (R18), the
block buffer holds at most a block (R22), the sequencer position is in the ranges of R23, and a running ENCODE
stands where R68 says. -/
structure Inv (s : State) : Prop where
  config : s.cfg.wellFormed = true
  rom : s.rom = s.cfg.microProgram
  memory : Memory.wf s.mem = true
  status : legalStatus s.status
  alfn : s.alfn.toNat < 2 ^ s.cfg.wAlfn
  buffer : s.bb.length ≤ s.cfg.blockBits
  upc : s.upc.toNat < 12
  blk : s.blk.toNat < s.cfg.blocksPerFrame
  cursor : s.pos.toNat ≤ s.nreq.toNat
  running : s.phase = .run → RunPosition s

/-- What a running ENCODE has put out so far, for the counter value `alfn0` it started with: ALFN has advanced by
one a frame (R65), BB is the beginning of the current block of the record (R22, R43), and the units written are
the beginning of the record (R44). -/
structure OutputSoFar (alfn0 : Nat) (s : State) : Prop where
  alfn : (alfnValue s).toNat = (alfn0 + s.frm.toNat) % 2 ^ s.cfg.wAlfn
  buffer : s.upc ≠ 0 →
    s.bb = (Record.block s.cfg s.name (alfnValue s).toNat s.blk.toNat).take (bitsBefore s.cfg s.upc.toNat)
  units : ∀ i (h : i < (Record.output s.cfg s.name alfn0 (framesOf s.cfg s.nreq.toNat)).length), i < s.pos.toNat →
    unitAt s (s.outBase + i) = some (unitOf (Record.output s.cfg s.name alfn0 (framesOf s.cfg s.nreq.toNat))[i])

/-- The host may present a command and have it accepted in the next step: the unit is idle and no reset event is
applied (R99, R102). -/
def ready (s : State) (w : Word64) : Prop := s.phase = .idle ∧ s.rst = none ∧ s.cmd = some w

/-- While an ENCODE runs, the units of the current block hold the bits of the block buffer (R30). -/
def BufferMirrored (s : State) : Prop :=
  s.phase = .run → s.upc ≠ 0 →
    ∀ j (h : j < s.bb.length), unitAt s (s.outBase + blockStart s + j) = some (unitOf s.bb[j])

/-- Two outcomes are alike but for what `forget` makes equal: both next states alike, or the same stop. -/
def sameOutcome (forget : State → State) : Host.Outcome State Fault Refusal → Host.Outcome State Fault Refusal → Prop
  | .next t, .next u => forget t = forget u
  | .fault f, .fault g => f = g
  | .refused f, .refused g => f = g
  | _, _ => False

/-- The polynomial register the reflected one mirrors (R81): shift left, bring the input in at bit 0, XOR
`0x080B` when the bit shifted out of bit 15 was 1. -/
def standardRound (r : BitVec 16) (x : Bool) : BitVec 16 :=
  let shifted := (r <<< 1) ||| (BitVec.ofBool x).setWidth 16
  if r.getLsbD 15 then shifted ^^^ 0x080B else shifted

/-- `k` ENCODEs of one frame each, the i-th at `base + i*FRAME_BITS`, each presented when the one before has been
answered and run to its end (R54); none if a run does not end in a next state. -/
def encodeFrameByFrame (base : Nat) : Nat → State → Option State
  | 0, s => some s
  | k + 1, s =>
    match runSteps (1 + 12 * s.cfg.blocksPerFrame)
        (presentCommand s (encode (.encode (BitVec.ofNat 60 s.cfg.frameBits))) base) with
    | .next t => encodeFrameByFrame (base + s.cfg.frameBits) k t
    | .fault _ => none
    | .refused _ => none

end Machine

end Sys2Proof
end

