-- ==== Sys2Proof/Certificates/Slice0/Obligations.lean ====
section
/-! DEFINITION. The statements about the unit, one per entry of OBLIGATIONS.json. -/

open Sys2Proof Sys2Proof.Machine

/-! ### Encodings -/

/-- R45, R47, R50: the command decoder reads back every command the encoding admits. -/
def Obligations.CommandDecodeInvertsEncode : Prop :=
  ∀ i : Instr, i.format = .command → i.encodable = true → decodeCommand (encode i) = i

/-- R48, R49, R50: the micro-op decoder reads back every micro-op, with every W and every IMM. -/
def Obligations.MicroDecodeInvertsEncode : Prop :=
  ∀ i : Instr, i.format = .micro → decodeMicro (encode i) = .ok i

/-- R50: every 64-bit command word is a word of exactly one instruction of the table, and matches its row. -/
def Obligations.EveryCommandWordIsOneRow : Prop :=
  ∀ w : Word64,
    (decodeCommand w).format = .command ∧ (decodeCommand w).encodable = true ∧ encode (decodeCommand w) = w ∧
      (decodeCommand w).row.admits w = true ∧
      ∀ i : Instr, i.format = .command → i.encodable = true → encode i = w → i = decodeCommand w

/-- R48, R49, R50: a micro-op word decodes to an instruction exactly when it is that instruction's word, and is
rejected by name exactly when no micro-op row of the table admits it. -/
def Obligations.MicroWordsDecodeExactly : Prop :=
  ∀ w : Word64,
    (∀ i : Instr, decodeMicro w = .ok i ↔ i.format = .micro ∧ encode i = w) ∧
      (decodeMicro w = .error (.fixedFieldNotZero w) ↔
        ∀ i : Instr, i.format = .micro → i.row.admits w = false)

/-- Nine words of the spec, as it writes them (R52, R60, spec/95 sections 2.2 and 2.3), decode to what they stand for.
The micro-op word 0x1, BSTART with an IMM that is not 0, is no word the spec writes out: R49 and R50 say it never
occurs, and the model's decoder rejects it by name (log entry 12). -/
def Obligations.SpecWordsDecode : Prop :=
  decodeCommand 0x0000000000000000 = .nop ∧ decodeCommand 0x1000000000000D40 = .encode 3392 ∧
    decodeCommand 0x2000000000000000 = .readAlfn ∧ decodeCommand 0x3000000000000005 = .illegalReadStatusArg 5 ∧
    decodeCommand 0x7000000000000D40 = .reservedCmd6to7 0x1000000000000D40 ∧
    decodeMicro 0x18000000A5A5A5A5 = .ok (.emit 32 0xA5A5A5A5) ∧ decodeMicro 0x3000000000000100 = .ok (.padto 256) ∧
    decodeMicro 0x2000000000000000 = .ok .name ∧ decodeMicro 0x5000000000000000 = .ok .crc ∧
    decodeMicro 0x0000000000000001 = .error (.fixedFieldNotZero 1)

/-- R52: the words of the assembler's statements. `construct` is the event with `alfn_in = A` cut to the W_ALFN bits of
that port (R25, R98). That an N of 2^60 or more gives no word is the model's reading of an operand that does not
fit (log entry 19). -/
def Obligations.AssemblerStatementsGiveWords : Prop :=
  ∀ c : Config,
    assemble c .nop = some (.command 0x0000000000000000) ∧
    assemble c .readAlfn = some (.command 0x2000000000000000) ∧
    assemble c .readStatus = some (.command 0x3000000000000000) ∧
    assemble c .readFrameBits = some (.command 0x4000000000000000) ∧
    (∀ n : BitVec 60, assemble c (.encode n.toNat) = some (.command (0x1000000000000000 ||| n.setWidth 64))) ∧
    (∀ n, 2 ^ 60 ≤ n → assemble c (.encode n) = none) ∧
    (∀ k, assemble c (.encodeFrames k) = assemble c (.encode (k * c.frameBits))) ∧
    (∀ v : Word64, assemble c (.word v.toNat) = some (.command v)) ∧
    (∀ name a, assemble c (.construct name a) = some (.rst ⟨name, BitVec.ofNat 64 (a % 2 ^ c.wAlfn)⟩)) ∧
    (∀ v, assemble c (.emitBit v) = assemble c (.emit 1 v))

/-! ### A step runs the decoded instruction -/

/-- Between commands, with no reset event, the command on the port is taken off it and executed (R102): the
step is the meaning of the decoded command. That the old response is cleared from `rsp` when the command is accepted
is the model's choice (log entry 6). -/
def Obligations.StepRunsTheCommand : Prop :=
  ∀ (s : State) (w : Word64), ready s w → step s = exec (decodeCommand w) { s with cmd := none, rsp := none }

/-- While an ENCODE runs, with no reset event, the step is the meaning of the decoded word ROM[UPC] (R61). -/
def Obligations.StepRunsTheMicroOp : Prop :=
  ∀ (s : State) (h : s.upc.toNat < 12) (i : Instr), s.phase = .run → s.rst = none →
    decodeMicro s.rom[s.upc.toNat] = .ok i → step s = exec i s

/-- Where a running unit has no word or no meaning for it, the step stops by name: a UPC past the twelve words of
the ROM (log entry 15), and a ROM word that no row admits (R50, log entry 12). The model's choice of stops. -/
def Obligations.StepStopsOutsideTheRom : Prop :=
  ∀ s : State, s.phase = .run → s.rst = none →
    (12 ≤ s.upc.toNat → step s = .fault (.microFetchOutsideRom s.upc)) ∧
      ∀ h : s.upc.toNat < 12, (∀ i : Instr, i.format = .micro → i.row.admits s.rom[s.upc.toNat] = false) →
        step s = .refused (.undefinedMicroWord s.rom[s.upc.toNat])

/-! ### Host commands -/

/-- R55: NOP responds 0 and changes nothing else; with a nonzero ARG the word raises ILLEGAL_COMMAND. -/
def Obligations.NopRespondsZero : Prop :=
  decodeCommand 0x0000000000000000 = .nop ∧
    (∀ arg : BitVec 60, arg ≠ 0 → decodeCommand (0x0#4 ++ arg) = .illegalNopArg arg) ∧
    ∀ s : State, exec .nop s = .next { s with rsp := some 0 } ∧
      ∀ arg : BitVec 60, exec (.illegalNopArg arg) s =
        .next { s with status := recordFault s.status 2, phase := .idle, rsp := some 0 }

/-- R56: READ_ALFN responds the W_ALFN bits of ALFN zero-extended to 64, and changes nothing else; with a nonzero
ARG the word raises ILLEGAL_COMMAND. -/
def Obligations.ReadAlfnRespondsCounter : Prop :=
  decodeCommand 0x2000000000000000 = .readAlfn ∧
    (∀ arg : BitVec 60, arg ≠ 0 → decodeCommand (0x2#4 ++ arg) = .illegalReadAlfnArg arg) ∧
    ∀ s : State,
      (∃ v : Word64, exec .readAlfn s = .next { s with rsp := some v } ∧
        (∀ j, j < s.cfg.wAlfn → v.getLsbD j = s.alfn.getLsbD j) ∧ ∀ j, s.cfg.wAlfn ≤ j → v.getLsbD j = false) ∧
      ∀ arg : BitVec 60, exec (.illegalReadAlfnArg arg) s =
        .next { s with status := recordFault s.status 2, phase := .idle, rsp := some 0 }

/-- R57: READ_STATUS responds STATUS, whose bits 3:1 and 63:8 read 0, and changes nothing, so it clears nothing;
after reset the response is 0, after a first fault of code c it is `(c << 4) | 1`, and a later fault leaves it;
with a nonzero ARG the word raises ILLEGAL_COMMAND and responds 0. -/
def Obligations.ReadStatusRespondsStatus : Prop :=
  decodeCommand 0x3000000000000000 = .readStatus ∧
    (∀ arg : BitVec 60, arg ≠ 0 → decodeCommand (0x3#4 ++ arg) = .illegalReadStatusArg arg) ∧
    ∀ s : State,
      (∃ v : Word64, exec .readStatus s = .next { s with rsp := some v } ∧
        (∀ j, v.getLsbD j = (s.status.getLsbD j && (j == 0 || (4 ≤ j && j ≤ 7))))) ∧
      (∀ p, exec .readStatus (construct s p) = .next { construct s p with rsp := some 0 }) ∧
      (s.status = 0 → ∀ c d : BitVec 4,
        exec .readStatus (raiseFault s c) = .next { raiseFault s c with rsp := some ((c.setWidth 64 <<< 4) ||| 1) } ∧
        exec .readStatus (raiseFault (raiseFault s c) d) =
          .next { raiseFault s c with rsp := some ((c.setWidth 64 <<< 4) ||| 1) }) ∧
      ∀ arg : BitVec 60, exec (.illegalReadStatusArg arg) s =
        .next { s with status := recordFault s.status 2, phase := .idle, rsp := some 0 }

/-- R58: READ_FRAME_BITS responds FRAME_BITS zero-extended to 64 bits (its value, for a well-formed configuration),
and changes nothing else; with a nonzero ARG the word raises ILLEGAL_COMMAND. -/
def Obligations.ReadFrameBitsRespondsWidth : Prop :=
  decodeCommand 0x4000000000000000 = .readFrameBits ∧
    (∀ arg : BitVec 60, arg ≠ 0 → decodeCommand (0x4#4 ++ arg) = .illegalReadFrameBitsArg arg) ∧
    ∀ s : State,
      (∃ v : Word64, exec .readFrameBits s = .next { s with rsp := some v } ∧
        (s.cfg.wellFormed = true → v.toNat = s.cfg.blocksPerFrame * (max 196 s.cfg.padMin + 16))) ∧
      ∀ arg : BitVec 60, exec (.illegalReadFrameBitsArg arg) s =
        .next { s with status := recordFault s.status 2, phase := .idle, rsp := some 0 }

/-- R59: a word with OP 0x5 to 0xF, any ARG, raises ILLEGAL_COMMAND: STATUS records it, the response is 0, nothing
else changes. -/
def Obligations.ReservedCommandsFault : Prop :=
  (∀ (op : BitVec 4) (arg : BitVec 60) (s : State), 5 ≤ op.toNat →
    exec (decodeCommand (op ++ arg)) s =
      .next { s with status := recordFault s.status 2, phase := .idle, rsp := some 0 }) ∧
  ∀ s : State,
    (∀ arg : BitVec 60, exec (.reservedCmd5 arg) s =
      .next { s with status := recordFault s.status 2, phase := .idle, rsp := some 0 }) ∧
    (∀ rest : BitVec 61, exec (.reservedCmd6to7 rest) s =
      .next { s with status := recordFault s.status 2, phase := .idle, rsp := some 0 }) ∧
    (∀ rest : BitVec 63, exec (.reservedCmd8toF rest) s =
      .next { s with status := recordFault s.status 2, phase := .idle, rsp := some 0 })

/-- R84: raising a fault sets FAULT_CODE and FAULT if no fault came before and leaves STATUS otherwise, makes PHASE
IDLE and the response 0, and has no other effect. -/
def Obligations.RaiseFaultRecordsFirstCode : Prop :=
  ∀ (s : State) (code : BitVec 4),
    raiseFault s code = { s with status := (raiseFault s code).status, phase := .idle, rsp := some 0 } ∧
      (faultFlag s.status = false → faultFlag (raiseFault s code).status = true ∧
        faultCode (raiseFault s code).status = code ∧
        statusWord (raiseFault s code) = (code.setWidth 64 <<< 4) ||| 1) ∧
      (faultFlag s.status = true → (raiseFault s code).status = s.status)

/-- R85, R87: a host command raises the one fault of the table, with no effect but the fault's, or raises none and
leaves STATUS. -/
def Obligations.CommandsFaultByTable : Prop :=
  ∀ (i : Instr) (s : State), i.format = .command →
    (∀ code, raises s.cfg i = some code →
      exec i s = .next { s with status := recordFault s.status code, phase := .idle, rsp := some 0 }) ∧
      (raises s.cfg i = none → ∃ t, exec i s = .next t ∧ t.status = s.status)

/-- R53: an ENCODE of K ≥ 1 whole frames takes OUT_BASE from `cmd_base` and N from the word, and begins the first
frame: POS, FRM, BLK and UPC 0, PHASE RUN. Nothing is written yet and nothing else changes. -/
def Obligations.EncodeBeginsRun : Prop :=
  ∀ (s : State) (n : BitVec 60), n.toNat % s.cfg.frameBits = 0 → 0 < n.toNat / s.cfg.frameBits →
    exec (.encode n) s =
      .next { s with outBase := s.cmdBase, nreq := n, pos := 0, frm := 0, blk := 0, upc := 0, phase := .run }

/-- R53: an ENCODE of no unit ends at once with the response 0 and no fault; one whose length is no multiple of
FRAME_BITS raises INVALID_REQUEST_LENGTH and has no other effect. (Where FRM, BLK and UPC stand after an ENCODE of
no unit is the model's reading, log entry 8, and is not stated.) -/
def Obligations.EncodeOfNoFrameEndsOrFaults : Prop :=
  ∀ (s : State) (n : BitVec 60),
    (n = 0 → ∃ t, exec (.encode n) s = .next t ∧
      t = { s with outBase := s.cmdBase, nreq := 0, pos := 0, phase := .idle, rsp := some 0,
                   frm := t.frm, blk := t.blk, upc := t.upc }) ∧
      (n.toNat % s.cfg.frameBits ≠ 0 → exec (.encode n) s =
        .next { s with status := recordFault s.status 1, phase := .idle, rsp := some 0 })

/-! ### Micro-ops -/

/-- R70: EmitBit writes the bit, zero-extended to a byte, at OUT_BASE + POS and nowhere else, appends it to BB and
advances POS by one, and changes nothing else; and a step of a running ENCODE never emits with POS at or past
NREQ. -/
def Obligations.EmitBitWritesOneUnit : Prop :=
  (∀ (s : State) (x : Bool),
    unitAt (emitBit s x) (s.outBase + s.pos.toNat) = some (if x then 1 else 0) ∧
      (∀ a, a ≠ s.outBase + s.pos.toNat → unitAt (emitBit s x) a = unitAt s a) ∧
      emitBit s x = { s with mem := (emitBit s x).mem, bb := s.bb ++ [x], pos := s.pos + 1 }) ∧
    ∀ s t : State, Inv s → s.phase = .run → step s = .next t →
      t.bb.length ≤ s.bb.length ∨ s.pos.toNat + (t.bb.length - s.bb.length) ≤ s.nreq.toNat

/-- R62: BSTART empties the block buffer, advances UPC, and changes nothing else; when a running ENCODE executes
it, POS is `(FRM*BLOCKS_PER_FRAME + BLK) * BLOCK_BITS`. -/
def Obligations.BstartEmptiesBuffer : Prop :=
  encode .bstart = 0x0000000000000000 ∧
    (∀ s : State, exec .bstart s = .next { s with bb := [], upc := s.upc + 1 }) ∧
    ∀ s : State, Inv s → s.phase = .run → decodeMicro (s.rom[s.upc.toNat]?.getD 0xFFFFFFFFFFFFFFFF) = .ok .bstart →
      s.pos.toNat = (s.frm.toNat * s.cfg.blocksPerFrame + s.blk.toNat) * s.cfg.blockBits

/-- R71: EMIT emits the low W bits of IMM zero-extended, MSB first, and nothing above them; the EMITs of the ROM of
a well-formed configuration have W 1, 2 or 32 and IMM < 2^W. -/
def Obligations.EmitSerialisesMsbFirst : Prop :=
  (∀ (w : BitVec 6) (imm : BitVec 32),
    encode (.emit w imm) = (0x1#64 <<< 60) ||| (w.setWidth 64 <<< 54) ||| imm.setWidth 64) ∧
  (∀ (s : State) (w : BitVec 6) (imm : BitVec 32), s.pos.toNat + w.toNat ≤ 2 ^ 60 →
    ∃ t xs, exec (.emit w imm) s = .next t ∧ Emitted s t xs ∧ xs.length = w.toNat ∧
      ∀ i, i < w.toNat → xs[i]? = some ((imm.setWidth 64).getLsbD (w.toNat - 1 - i))) ∧
  ∀ (c : Config) (w : BitVec 6) (imm : BitVec 32), c.wellFormed = true → .emit w imm ∈ c.microStatements.toList →
    (w = 1 ∨ w = 2 ∨ w = 32) ∧ imm.toNat < 2 ^ w.toNat

/-- R75: NAME emits the 160 bits of the 32 five-bit codes, character 0 first, each MSB first. -/
def Obligations.NameEmitsCodes : Prop :=
  encode .name = 0x2000000000000000 ∧
    ∀ s : State, s.pos.toNat + 160 ≤ 2 ^ 60 →
      ∃ t xs, exec .name s = .next t ∧ Emitted s t xs ∧ xs.length = 160 ∧
        ∀ (k : Fin 32) (i : Fin 5), xs[5 * k.val + i.val]? = some ((charMap s.name[k.val]).getLsbD (4 - i.val))

/-- R72: PADTO emits zeros until the running block length reaches IMM, none where it already does; at UPC 6 of a
running ENCODE the running block length is 196. -/
def Obligations.PadtoPadsToWidth : Prop :=
  (∀ imm : BitVec 32, encode (.padto imm) = 0x3000000000000000 ||| imm.setWidth 64) ∧
  (∀ (s : State) (imm : BitVec 32), s.pos.toNat + (imm.toNat - s.bb.length) ≤ 2 ^ 60 →
    ∃ t xs, exec (.padto imm) s = .next t ∧ Emitted s t xs ∧ (∀ x ∈ xs, x = false) ∧
      (s.bb.length ≤ imm.toNat → t.bb.length = imm.toNat) ∧ (imm.toNat ≤ s.bb.length → xs = [])) ∧
  ∀ s : State, Inv s → s.phase = .run → s.upc = 6 → s.bb.length = 196

/-- R63: ALFNSL emits the two bits of `(ALFN >> (2*BLK)) & 0b11`, MSB first, where bits of ALFN at or above W_ALFN
read 0, and leaves ALFN. -/
def Obligations.AlfnslEmitsSlice : Prop :=
  encode .alfnsl = 0x4000000000000000 ∧
    ∀ s : State, s.pos.toNat + 2 ≤ 2 ^ 60 →
      ∃ t hi lo, exec .alfnsl s = .next t ∧ Emitted s t [hi, lo] ∧ t.alfn = s.alfn ∧
        2 * hi.toNat + lo.toNat = ((s.alfn.toNat % 2 ^ s.cfg.wAlfn) >>> (2 * s.blk.toNat)) &&& 3 ∧
        (s.cfg.wAlfn ≤ 2 * s.blk.toNat → hi = false ∧ lo = false) ∧
        (2 * s.blk.toNat + 1 = s.cfg.wAlfn → hi = false ∧ lo = s.alfn.getLsbD (s.cfg.wAlfn - 1))

/-- R80: CRC emits the 12 bits of CRC12 of the block buffer as it stands before, MSB first; when a running ENCODE
executes it, the buffer holds CRC_DATA_BITS bits. (The value the register CRC keeps is the model's reading, log
entry 13, and is not stated.) -/
def Obligations.CrcEmitsChecksum : Prop :=
  encode .crc = 0x5000000000000000 ∧
  (∀ s : State, s.pos.toNat + 12 ≤ 2 ^ 60 →
    ∃ t xs, exec .crc s = .next t ∧ Emitted { s with crc := t.crc } t xs ∧ xs.length = 12 ∧
      ∀ i, i < 12 → xs[i]? = some ((crc12 s.bb).getLsbD (11 - i))) ∧
  ∀ s : State, Inv s → s.phase = .run → s.upc = 10 → s.bb.length = s.cfg.crcDataBits

/-- R64: BEND starts the next block, or at the last block of the frame advances ALFN modulo 2^W_ALFN, sets BLK to 0
and ends the frame, after which the next frame begins or, after the last, the ENCODE ends with the response N
(R53). It writes no unit. (Where UPC and FRM stand after the last frame is the model's reading, log entry 8, and is
not stated.) -/
def Obligations.BendEndsBlockOrFrame : Prop :=
  encode .bend = 0x6000000000000000 ∧
  ∀ s : State,
    (s.blk.toNat ≠ s.cfg.blocksPerFrame - 1 → exec .bend s = .next { s with blk := s.blk + 1, upc := 0 }) ∧
    (s.blk.toNat = s.cfg.blocksPerFrame - 1 → s.frm.toNat + 1 < s.nreq.toNat / s.cfg.frameBits →
      exec .bend s = .next { s with alfn := BitVec.ofNat 64 ((s.alfn.toNat + 1) % 2 ^ s.cfg.wAlfn), blk := 0,
                                    frm := s.frm + 1, upc := 0 }) ∧
    (s.blk.toNat = s.cfg.blocksPerFrame - 1 → s.nreq.toNat / s.cfg.frameBits ≤ s.frm.toNat + 1 →
      ∃ t, exec .bend s = .next t ∧
        t = { s with alfn := BitVec.ofNat 64 ((s.alfn.toNat + 1) % 2 ^ s.cfg.wAlfn), blk := 0, phase := .idle,
                     rsp := some (s.nreq.setWidth 64), upc := t.upc, frm := t.frm })

/-- R50: the reserved micro-ops have no meaning: they are refused by name in every state. -/
def Obligations.ReservedMicroOpsAreRefused : Prop :=
  ∀ s : State,
    (∀ rest : BitVec 60, exec (.reservedMicro7 rest) s = .refused (.reservedMicroOp 0x7)) ∧
      ∀ rest : BitVec 63, ∃ mop : BitVec 4, 8 ≤ mop.toNat ∧ mop = (encode (.reservedMicro8toF rest)).extractLsb' 60 4 ∧
        exec (.reservedMicro8toF rest) s = .refused (.reservedMicroOp mop)

/-! ### The name alphabet -/

/-- R73: CHARMAP, byte by byte. -/
def Obligations.CharMapFollowsTable : Prop :=
  ∀ c : Byte,
    (0x41 ≤ c.toNat ∧ c.toNat ≤ 0x5A → (charMap c).toNat = c.toNat - 0x41) ∧
    (0x61 ≤ c.toNat ∧ c.toNat ≤ 0x7A → (charMap c).toNat = c.toNat - 0x61) ∧
    (c = 0x3F → charMap c = 27) ∧ (c = 0x2D → charMap c = 28) ∧ (c = 0x2A → charMap c = 29) ∧
    (c = 0x24 → charMap c = 30) ∧ (Receiver.inAlphabet c = false → charMap c = 26)

/-- R74: CHARMAP never yields 31, and none of the 32 name codes of an output block is 31. -/
def Obligations.NoBlockCarriesCode31 : Prop :=
  (∀ c : Byte, charMap c ≠ 31) ∧
    ∀ (c : Config) (name : Vector Byte 32) (alfn b : Nat) (k : Fin 32),
      ((Record.block c name alfn b).drop (34 + 5 * k.val)).take 5 ≠ [true, true, true, true, true]

/-- R78: DECODE, its inverse law on every byte, and that 200 bytes map to 26. -/
def Obligations.ReceiverInvertsCharMap : Prop :=
  (∀ code : BitVec 5, code.toNat ≤ 25 → Receiver.decodeCode code = .char (BitVec.ofNat 8 (0x41 + code.toNat))) ∧
    Receiver.decodeCode 26 = .outside ∧ Receiver.decodeCode 27 = .char 0x3F ∧ Receiver.decodeCode 28 = .char 0x2D ∧
    Receiver.decodeCode 29 = .char 0x2A ∧ Receiver.decodeCode 30 = .char 0x24 ∧ Receiver.decodeCode 31 = .reserved ∧
    (∀ c : Byte, Receiver.decodeCode (charMap c) =
      if Receiver.inAlphabet c then .char (Receiver.upperCase c) else .outside) ∧
    ((List.range 256).filter fun n => charMap (BitVec.ofNat 8 n) == 26).length = 200

/-! ### The checksum -/

/-- R82: zero data, trailing zeros, affinity, position dependence. -/
def Obligations.CrcIdentities : Prop :=
  (∀ n, crc12 (List.replicate n false) = 0x955 ∧ crcRegister (List.replicate n false) = 0) ∧
    (∀ d, crc12 (d ++ [false]) = crc12 d) ∧
    (∀ a b : List Bool, a.length = b.length → crc12 (List.zipWith xor a b) = crc12 a ^^^ crc12 b ^^^ 0x955) ∧
    (∀ j n, j < n →
      crc12 (List.replicate j false ++ true :: List.replicate (n - 1 - j) false) =
        crc12 (List.replicate j false ++ [true])) ∧
    crc12 [true] = 0x945 ∧ crc12 [false, true] = 0x15D ∧ crc12 [false, false, true] = 0xD51

/-- R81: 0xD010 is the bit reversal of 0x080B, and the register runs that polynomial in reflected form: a round on
the reversed register is the reversal of the round of the polynomial register, for data and for flush rounds. -/
def Obligations.CrcRunsReflectedPolynomial : Prop :=
  crcPoly = (0x080B : BitVec 16).reverse ∧
    (∀ (r : BitVec 16) (x : Bool), crcRound r.reverse x = (standardRound r x).reverse) ∧
    (∀ r : BitVec 16, crcFlushRound r.reverse = (standardRound r false).reverse) ∧
    ∀ d : List Bool,
      crcRegister d = ((d.reverse ++ List.replicate 16 false).foldl standardRound 0).reverse

/-! ### Configuration, ROM and reset -/

/-- R9: the derived sizes. -/
def Obligations.DerivedSizes : Prop :=
  headBits = 196 ∧
    ∀ c : Config, c.payloadBits = max 196 c.padMin ∧ c.crcDataBits = c.payloadBits + 4 ∧
      c.blockBits = c.crcDataBits + 12 ∧ c.blockBits = c.payloadBits + 16 ∧
      c.frameBits = c.blocksPerFrame * c.blockBits

/-- R10: powering on refuses exactly the configurations that fail a check, and the ROMs that are not R60's; any
other is constructed, whatever the 32 name bytes and the starting ALFN (R77). -/
def Obligations.PowerOnRefusesExactly : Prop :=
  ∀ (c : Config) (rom : Vector Word64 12) (p : RstInputs),
    (c.pidsFormatted ≤ 1 ∧ c.noExtension ≤ 1 ∧ c.stationNameLong ≤ 2 ^ 32 - 1 ∧ c.extensionFm ≤ 3 ∧
        c.timeNotLocked ≤ 1 ∧ c.padMin ≤ 2 ^ 32 - 1 ∧ 1 ≤ c.blocksPerFrame ∧ c.blocksPerFrame ≤ 2 ^ 16 ∧
        32 ≤ c.wAlfn ∧ c.wAlfn ≤ 64 ∧ c.frameBits ≤ 2 ^ 60 - 1 ∧ rom = c.microProgram →
      powerOn c rom p = .next (State.constructed c rom p)) ∧
    (¬(c.pidsFormatted ≤ 1 ∧ c.noExtension ≤ 1 ∧ c.stationNameLong ≤ 2 ^ 32 - 1 ∧ c.extensionFm ≤ 3 ∧
        c.timeNotLocked ≤ 1 ∧ c.padMin ≤ 2 ^ 32 - 1 ∧ 1 ≤ c.blocksPerFrame ∧ c.blocksPerFrame ≤ 2 ^ 16 ∧
        32 ≤ c.wAlfn ∧ c.wAlfn ≤ 64 ∧ c.frameBits ≤ 2 ^ 60 - 1 ∧ rom = c.microProgram) →
      powerOn c rom p = .refused .configurationRefused)

/-- R60: the twelve words of the ROM of a well-formed configuration, as the spec writes them, and the micro-op each
decodes to. -/
def Obligations.RomHoldsMicroProgram : Prop :=
  ∀ c : Config, c.wellFormed = true →
    c.microProgram = #v[0x0000000000000000, 0x1040000000000000 ||| BitVec.ofNat 64 c.pidsFormatted,
      0x1040000000000000 ||| BitVec.ofNat 64 c.noExtension, 0x1800000000000000 ||| BitVec.ofNat 64 c.stationNameLong,
      0x2000000000000000, 0x1080000000000000 ||| BitVec.ofNat 64 c.extensionFm,
      0x3000000000000000 ||| BitVec.ofNat 64 c.padMin, 0x1040000000000000,
      0x1040000000000000 ||| BitVec.ofNat 64 c.timeNotLocked, 0x4000000000000000, 0x5000000000000000,
      0x6000000000000000] ∧
    ∀ k : Fin 12, decodeMicro c.microProgram[k.val] = .ok c.microStatements[k.val] ∧
      c.microStatements[k.val].wellFormed = true

/-- R27, R98: the values after construction, by the `rst` event between commands; OUT_BASE is unspecified and the
output region is not touched. It is stated with a command on the port as well: that the reset event is taken before
that command is the model's choice (log entry 11). -/
def Obligations.ConstructionLoadsState : Prop :=
  ∀ (s : State) (p : RstInputs), s.phase = .idle → s.rst = some p →
    ∃ t, step s = .next t ∧ t.name = p.nameIn ∧ t.alfn = BitVec.ofNat 64 (p.alfnIn.toNat % 2 ^ s.cfg.wAlfn) ∧
      t.status = 0 ∧ frameBitsReg t = BitVec.ofNat 64 s.cfg.frameBits ∧ t.phase = .idle ∧ t.upc = 0 ∧ t.blk = 0 ∧
      t.frm = 0 ∧ t.pos = 0 ∧ t.nreq = 0 ∧ t.crc = 0 ∧ t.bb = [] ∧ t.mem = s.mem ∧ t.cfg = s.cfg ∧ t.rom = s.rom

/-- The model's state after reset: the powered-on unit with the installed configuration, and the values R27 gives.
The configuration and the port values are free (log entries 1 and 2), and that the ports are empty and that nothing
is listed in the output region is the model's choice (log entries 5 and 6). -/
def Obligations.ResetStateIsConstructed : Prop :=
  powerOn Config.installed Config.installed.microProgram ⟨Config.nameIn, Config.alfnIn⟩ = .next State.reset ∧
    State.reset.name = Config.nameIn ∧
    State.reset.alfn.toNat = Config.alfnIn.toNat % 2 ^ Config.installed.wAlfn ∧
    statusWord State.reset = 0 ∧ State.reset.phase = .idle ∧ State.reset.upc = 0 ∧ State.reset.blk = 0 ∧
    State.reset.frm = 0 ∧ State.reset.pos = 0 ∧ State.reset.nreq = 0 ∧ State.reset.crc = 0 ∧ State.reset.bb = [] ∧
    (∀ a, unitAt State.reset a = none) ∧ State.reset.rst = none ∧ State.reset.cmd = none ∧ State.reset.rsp = none

/-- R99: a reset event is taken while no command executes; in the middle of an ENCODE the model gives it no move. That
the event is over after the step is the model's choice (log entry 6), and so are that it is taken before a command
on the port and the name of the refusal (log entry 11). -/
def Obligations.ResetDuringEncodeIsRefused : Prop :=
  ∀ (s : State) (p : RstInputs), s.rst = some p →
    (s.phase = .idle → ∃ t, step s = .next t ∧ t.rst = none ∧ t.phase = .idle) ∧
      (s.phase = .run → step s = .refused .resetDuringCommand)

/-! ### The whole machine -/

/-- Every construction with a well-formed configuration meets the invariant, and so does the state after reset. -/
def Obligations.ConstructedStateMeetsInvariant : Prop :=
  (∀ (c : Config) (rom : Vector Word64 12) (p : RstInputs) (s : State), powerOn c rom p = .next s → Inv s) ∧
    Inv State.reset

/-- Every step keeps the invariant: a well-formed configuration and its ROM, a canonical memory, a legal STATUS
(R19), an ALFN of W_ALFN bits, a block buffer of at most a block (R22), and the sequencer position in its ranges
(R23), standing where R68 says while an ENCODE runs. -/
def Obligations.StepKeepsInvariant : Prop :=
  ∀ s t : State, Inv s → step s = .next t → Inv t

/-- R86: from every state that meets the invariant, with no reset event, a step has a next state: no micro-op and no
command stops the unit. -/
def Obligations.StepFromInvariantNeverStops : Prop :=
  ∀ s : State, Inv s → s.rst = none → ∃ t, step s = .next t

/-- R41, R17: no command and no micro-op changes the ROM, the configuration or NAME: a step changes NAME only by a
reset event, and the ROM and the configuration never, whatever words the ROM holds. -/
def Obligations.OnlyConstructionChangesName : Prop :=
  ∀ s t : State, step s = .next t → t.rom = s.rom ∧ t.cfg = s.cfg ∧ (s.rst = none → t.name = s.name)

/-- R65: but for a reset event, ALFN changes only in BEND of block BLOCKS_PER_FRAME − 1, and there it becomes
`(ALFN + 1) mod 2^W_ALFN`. -/
def Obligations.AlfnChangesOnlyAtFrameEnd : Prop :=
  ∀ s t : State, step s = .next t → s.rst = none →
    (t.alfn ≠ s.alfn → s.phase = .run ∧ s.blk.toNat = s.cfg.blocksPerFrame - 1 ∧
      ∃ w, fetchMicro s = some w ∧ decodeMicro w = .ok .bend) ∧
    (s.phase = .run → s.blk.toNat = s.cfg.blocksPerFrame - 1 →
      (∃ w, fetchMicro s = some w ∧ decodeMicro w = .ok .bend) →
      t.alfn = BitVec.ofNat 64 ((s.alfn.toNat + 1) % 2 ^ s.cfg.wAlfn))

/-- R19, R84, R90: but for a reset event, STATUS keeps the first fault: once FAULT is set nothing changes STATUS, and
before, a step leaves it or records the code 1 or 2. A step changes STATUS exactly by the fault of the command it
accepts. So a run without a reset event that begins with FAULT clear is a failed run (R84: one in which any command
faults) exactly when FAULT is set at its end, and has succeeded exactly when FAULT is still clear. -/
def Obligations.StatusKeepsFirstFault : Prop :=
  (∀ s t : State, step s = .next t → s.rst = none →
    (faultFlag s.status = true → t.status = s.status) ∧
      (t.status ≠ s.status → s.phase = .idle ∧ (t.status = 0x11 ∨ t.status = 0x21) ∧ t.rsp = some 0) ∧
      (∀ code, stepRaises s = some code →
        t = { s with cmd := none, status := recordFault s.status code, rsp := some 0 }) ∧
      (stepRaises s = none → t.status = s.status)) ∧
  ∀ (as : List HostAction) (s t : State), faultFlag s.status = false → s.rst = none →
    (∀ p, HostAction.reset p ∉ as) → runHost as s = .next t →
    (runVerdict as s = .failed ↔ faultFlag t.status = true) ∧
      (runVerdict as s = .succeeded t ↔ faultFlag t.status = false)

/-- R34, R38: a step of the unit writes only while an ENCODE runs, only units of the requested region
`OUT_BASE + 0 .. OUT_BASE + NREQ − 1`, and only at and after the cursor, which moves past what it wrote: so no index
is written twice and the order is the emission order. -/
def Obligations.WritesStayAheadInRegion : Prop :=
  ∀ s t : State, Inv s → step s = .next t → ∀ a, unitAt t a ≠ unitAt s a →
    s.phase = .run ∧ s.outBase + s.pos.toNat ≤ a ∧ a < s.outBase + t.pos.toNat ∧ t.pos.toNat ≤ s.nreq.toNat

/-- R29: every unit a step writes holds 0x00 or 0x01. -/
def Obligations.WrittenUnitsAreBits : Prop :=
  ∀ s t : State, step s = .next t → ∀ a, unitAt t a ≠ unitAt s a → unitAt t a = some 0x00 ∨ unitAt t a = some 0x01

/-- R30, first half: the unit never reads the output region: with any other contents the step has the same outcome
but for those contents, and of the contents every unit is the same after both steps, as the steps wrote it, or is
after each step as it was before it. -/
def Obligations.UnitNeverReadsRegion : Prop :=
  ∀ (s : State) (m : Memory),
    sameOutcome (fun t => { t with mem := [] }) (step s) (step { s with mem := m }) ∧
      ∀ t u : State, step s = .next t → step { s with mem := m } = .next u →
        ∀ a, unitAt t a = unitAt u a ∨ (unitAt t a = unitAt s a ∧ unitAt u a = Memory.read m a)

/-- R21: the value the register CRC holds between CRC micro-ops has no effect: with any other value the step has the
same outcome but for that register, and the CRC micro-op itself has the very same outcome. -/
def Obligations.CrcRegisterIsNotObserved : Prop :=
  ∀ (s : State) (r : BitVec 16),
    sameOutcome (fun t => { t with crc := 0 }) (step s) (step { s with crc := r }) ∧
      exec .crc { s with crc := r } = exec .crc s

/-- R30, second half: while an ENCODE runs, the block buffer and the units of the current block hold the same bits;
every step keeps this. -/
def Obligations.BufferMirrorsRegion : Prop :=
  ∀ s t : State, Inv s → BufferMirrored s → step s = .next t → BufferMirrored t

/-- R102: a command presented while an ENCODE runs is held, with its base, and no response is returned until the
unit is idle again; while the unit is idle and no reset event comes, a presented command is accepted. -/
def Obligations.CommandIsHeldWhileRunning : Prop :=
  ∀ s t : State, step s = .next t →
    (s.phase = .run → t.cmd = s.cmd ∧ t.cmdBase = s.cmdBase ∧ (t.phase = .run → t.rsp = s.rsp)) ∧
      (s.phase = .idle → s.rst = none → t.cmd = none)

/-- R97: between commands the unit keeps all its state. -/
def Obligations.IdleKeepsState : Prop :=
  ∀ s : State, s.phase = .idle → s.rst = none → s.cmd = none → step s = .next s

/-- R69: an ENCODE of K frames, once accepted, executes exactly 12 * K * BLOCKS_PER_FRAME micro-ops and then
returns: after as many steps the unit is idle, and after fewer it still runs. -/
def Obligations.EncodeRunsCountedMicroOps : Prop :=
  ∀ (s : State) (n : BitVec 60), Inv s → ready s (encode (.encode n)) → n.toNat % s.cfg.frameBits = 0 →
    ∀ j, j ≤ 12 * (n.toNat / s.cfg.frameBits) * s.cfg.blocksPerFrame →
      ∃ t, runSteps (1 + j) s = .next t ∧
        (t.phase = .run ↔ j < 12 * (n.toNat / s.cfg.frameBits) * s.cfg.blocksPerFrame)

/-- R68, R43: one pass of the micro-program from a block's start emits the block of the record: after k of its
micro-ops the block buffer holds its first bits and the cursor stands past them, and after eleven the buffer is the
whole block. -/
def Obligations.PassEmitsBlockRecord : Prop :=
  ∀ s : State, Inv s → s.phase = .run → s.rst = none → s.upc = 0 →
    (∀ k, 1 ≤ k → k ≤ 11 → ∃ t, runSteps k s = .next t ∧ t.phase = .run ∧ t.upc.toNat = k ∧
      t.bb = (Record.block s.cfg s.name (alfnValue s).toNat s.blk.toNat).take (bitsBefore s.cfg k) ∧
      t.pos.toNat = s.pos.toNat + bitsBefore s.cfg k) ∧
    ∃ t, runSteps 11 s = .next t ∧ t.bb = Record.block s.cfg s.name (alfnValue s).toNat s.blk.toNat ∧
      t.bb.length = s.cfg.blockBits

/-- R44: while an ENCODE runs, what it has put out is the beginning of the output record of the counter value it
started with; every step keeps this, and when the ENCODE ends ALFN is past the request's frames. -/
def Obligations.StepKeepsOutputSoFar : Prop :=
  ∀ (alfn0 : Nat) (s t : State), Inv s → s.phase = .run → OutputSoFar alfn0 s → step s = .next t →
    (t.phase = .run → OutputSoFar alfn0 t) ∧
      (t.phase = .idle → t.pos.toNat = s.nreq.toNat ∧
        (alfnValue t).toNat = (alfn0 + s.nreq.toNat / s.cfg.frameBits) % 2 ^ s.cfg.wAlfn)

/-- R53, R66, R44: the whole ENCODE command. A length that is no multiple of FRAME_BITS raises
INVALID_REQUEST_LENGTH with no other effect. Any other length N = K * FRAME_BITS runs to its end: the N units from
`cmd_base` on hold the K frames of the record, every other unit is as before, ALFN has advanced by K modulo
2^W_ALFN, the response is N, and STATUS, NAME and the configuration are as before. -/
def Obligations.EncodeProducesRecord : Prop :=
  ∀ (s : State) (n : BitVec 60), Inv s → ready s (0x1#4 ++ n) →
    (n.toNat % s.cfg.frameBits ≠ 0 →
      step s = .next { s with cmd := none, status := recordFault s.status 1, rsp := some 0 }) ∧
    (n.toNat % s.cfg.frameBits = 0 →
      ∃ t, runSteps (1 + 12 * (n.toNat / s.cfg.frameBits) * s.cfg.blocksPerFrame) s = .next t ∧
        t.phase = .idle ∧ t.rsp = some (n.setWidth 64) ∧ t.outBase = s.cmdBase ∧ t.nreq = n ∧ t.pos = n ∧
        (alfnValue t).toNat = ((alfnValue s).toNat + n.toNat / s.cfg.frameBits) % 2 ^ s.cfg.wAlfn ∧
        (Record.output s.cfg s.name (alfnValue s).toNat (n.toNat / s.cfg.frameBits)).length = n.toNat ∧
        (∀ i x, (Record.output s.cfg s.name (alfnValue s).toNat (n.toNat / s.cfg.frameBits))[i]? = some x →
          unitAt t (s.cmdBase + i) = some (unitOf x)) ∧
        (∀ a, (a < s.cmdBase ∨ s.cmdBase + n.toNat ≤ a) → unitAt t a = unitAt s a) ∧
        t.status = s.status ∧ t.name = s.name ∧ t.cfg = s.cfg ∧ t.rom = s.rom ∧ t.cmd = none ∧ t.rst = none ∧
        t.freeCount = s.freeCount)

/-- R54: one ENCODE of K frames, and K ENCODEs of one frame each at the following bases, leave the same output
region and the same ALFN. -/
def Obligations.EncodeComposes : Prop :=
  ∀ (s : State) (k base : Nat), Inv s → s.phase = .idle → s.rst = none → k * s.cfg.frameBits < 2 ^ 60 →
    ∃ t u, runSteps (1 + 12 * k * s.cfg.blocksPerFrame)
        (presentCommand s (encode (.encode (BitVec.ofNat 60 (k * s.cfg.frameBits)))) base) = .next t ∧
      encodeFrameByFrame base k s = some u ∧ t.mem = u.mem ∧ t.alfn = u.alfn ∧ t.name = u.name ∧ t.status = u.status

/-- R54: "ENCODE reads no state but NAME, ALFN and the configuration": two units that agree on these, whatever the
rest of their state and whatever their regions hold, put out the same units for the same request. -/
def Obligations.OutputDependsOnNameAlfnConfig : Prop :=
  ∀ (s₁ s₂ : State) (n : BitVec 60), Inv s₁ → Inv s₂ → ready s₁ (encode (.encode n)) → ready s₂ (encode (.encode n)) →
    s₁.cfg = s₂.cfg → s₁.name = s₂.name → s₁.alfn = s₂.alfn → n.toNat % s₁.cfg.frameBits = 0 →
    ∃ t₁ t₂, runSteps (1 + 12 * (n.toNat / s₁.cfg.frameBits) * s₁.cfg.blocksPerFrame) s₁ = .next t₁ ∧
      runSteps (1 + 12 * (n.toNat / s₁.cfg.frameBits) * s₁.cfg.blocksPerFrame) s₂ = .next t₂ ∧
      t₁.phase = .idle ∧ t₂.phase = .idle ∧ t₁.alfn = t₂.alfn ∧ t₁.rsp = t₂.rsp ∧
      ∀ i, i < n.toNat → unitAt t₁ (s₁.cmdBase + i) = unitAt t₂ (s₂.cmdBase + i) ∧ unitAt t₁ (s₁.cmdBase + i) ≠ none

/-- R83: every block of every frame of an ENCODE's output is a block of bits a receiver can verify. -/
def Obligations.EveryEmittedBlockVerifies : Prop :=
  ∀ (s : State) (n : BitVec 60), Inv s → ready s (encode (.encode n)) → n.toNat % s.cfg.frameBits = 0 →
    ∃ t, runSteps (1 + 12 * (n.toNat / s.cfg.frameBits) * s.cfg.blocksPerFrame) s = .next t ∧
      ∀ f b, f < n.toNat / s.cfg.frameBits → b < s.cfg.blocksPerFrame →
        ∃ bits, Receiver.bitsAt t (s.cmdBase + (f * s.cfg.blocksPerFrame + b) * s.cfg.blockBits) s.cfg.blockBits =
            some bits ∧
          Receiver.verifies s.cfg bits = true

/-- R67: block b of a frame carries `(A >> 2b) & 3`, and the slices of blocks n − 1 down to 0 concatenated give the
low 2n bits of A: the whole counter where 2n is at least W_ALFN. -/
def Obligations.SlicesReconstructAlfn : Prop :=
  (∀ (c : Config) (name : Vector Byte 32) (a b : Nat),
    ((Record.block c name a b).drop (c.payloadBits + 2)).take 2 = fieldBits ((a >>> (2 * b)) &&& 3) 2) ∧
    (∀ a n, Receiver.joinSlices (fun b => (a >>> (2 * b)) &&& 3) n = a % 2 ^ (2 * n)) ∧
    ∀ a w n, a < 2 ^ w → w ≤ 2 * n → Receiver.joinSlices (fun b => (a >>> (2 * b)) &&& 3) n = a

/-- R43, R44: the block record field by field, at the offsets of the table, and the frames and blocks laid end to
end. -/
def Obligations.OutputRecordFollowsTable : Prop :=
  (∀ (c : Config) (name : Vector Byte 32) (a b : Nat),
    (Record.block c name a b).length = c.blockBits ∧
    (Record.block c name a b)[0]? = some (c.pidsFormatted.testBit 0) ∧
    (Record.block c name a b)[1]? = some (c.noExtension.testBit 0) ∧
    (∀ i, i < 32 → (Record.block c name a b)[2 + i]? = some (c.stationNameLong.testBit (31 - i))) ∧
    (∀ (k : Fin 32) (i : Fin 5),
      (Record.block c name a b)[34 + 5 * k.val + i.val]? = some ((charMap name[k.val]).getLsbD (4 - i.val))) ∧
    (Record.block c name a b)[194]? = some (c.extensionFm.testBit 1) ∧
    (Record.block c name a b)[195]? = some (c.extensionFm.testBit 0) ∧
    (∀ j, 196 ≤ j → j < c.payloadBits → (Record.block c name a b)[j]? = some false) ∧
    (Record.block c name a b)[c.payloadBits]? = some false ∧
    (Record.block c name a b)[c.payloadBits + 1]? = some (c.timeNotLocked.testBit 0) ∧
    (Record.block c name a b)[c.payloadBits + 2]? = some (a.testBit (2 * b + 1)) ∧
    (Record.block c name a b)[c.payloadBits + 3]? = some (a.testBit (2 * b)) ∧
    ∀ i, i < 12 → (Record.block c name a b)[c.payloadBits + 4 + i]? =
      some ((crc12 ((Record.block c name a b).take (c.payloadBits + 4))).getLsbD (11 - i))) ∧
  ∀ (c : Config) (name : Vector Byte 32) (a k : Nat),
    (Record.output c name a k).length = k * c.frameBits ∧
    ∀ f b j, f < k → b < c.blocksPerFrame → j < c.blockBits →
      (Record.output c name a k)[f * c.frameBits + b * c.blockBits + j]? =
        (Record.block c name ((a + f) % 2 ^ c.wAlfn) b)[j]?
end

