-- ==== Sys2Proof/Laws/Memory.lean ====
section
/-! SUPPORT. The laws of the output region: what a write leaves, and that it keeps the canonical form. -/

namespace Sys2Proof.Machine

/-- A read after a write: the written byte at its address, what was there before elsewhere. -/
theorem Memory.read_write (m : Memory) (x : Nat) (v : Byte) (y : Nat) :
    Memory.read (Memory.write m x v) y = if y = x then some v else Memory.read m y := by
  induction m with
  | nil => simp [Memory.write, Memory.read]
  | cons cell m ih =>
    obtain ⟨a, u⟩ := cell
    simp only [Memory.write]
    split
    · simp [Memory.read]
    · split
      · rename_i h; subst h
        simp only [Memory.read]; split <;> rfl
      · rename_i h
        simp only [Memory.read, ih]
        by_cases hy : y = a
        · subst hy; simp [Ne.symm h]
        · simp [hy]

@[simp] theorem Memory.read_write_same (m : Memory) (x : Nat) (v : Byte) :
    Memory.read (Memory.write m x v) x = some v := by simp [Memory.read_write]

theorem Memory.read_write_other (m : Memory) {x y : Nat} (v : Byte) (h : y ≠ x) :
    Memory.read (Memory.write m x v) y = Memory.read m y := by simp [Memory.read_write, h]

/-- Every address of the written memory is the address written or was there before. -/
theorem Memory.mem_write {m : Memory} {x : Nat} {v : Byte} {cell : Host.Cell}
    (h : cell ∈ Memory.write m x v) : cell = (x, v) ∨ cell ∈ m := by
  induction m with
  | nil => simpa [Memory.write] using h
  | cons head m ih =>
    obtain ⟨a, u⟩ := head
    simp only [Memory.write] at h
    split at h
    · simpa using h
    · split at h
      · rcases List.mem_cons.1 h with h | h
        · exact .inl h
        · exact .inr (List.mem_cons_of_mem _ h)
      · rcases List.mem_cons.1 h with h | h
        · exact .inr (h ▸ List.mem_cons_self)
        · rcases ih h with h | h
          · exact .inl h
          · exact .inr (List.mem_cons_of_mem _ h)

/-- A write keeps the canonical form. -/
theorem Memory.write_wf {m : Memory} (x : Nat) (v : Byte) (h : Memory.wf m = true) :
    Memory.wf (Memory.write m x v) = true := by
  induction m with
  | nil => simp [Memory.write, Memory.wf]
  | cons head m ih =>
    obtain ⟨a, u⟩ := head
    simp only [Memory.wf, Bool.and_eq_true, List.all_eq_true, decide_eq_true_eq] at h
    obtain ⟨hall, hm⟩ := h
    simp only [Memory.write]
    split
    · rename_i hx
      simp only [Memory.wf, Bool.and_eq_true, List.all_eq_true, decide_eq_true_eq]
      refine ⟨fun c hc => ?_, hall, hm⟩
      rcases List.mem_cons.1 hc with hc | hc
      · subst hc; exact hx
      · exact lt_trans hx (hall c hc)
    · rename_i hx
      split
      · rename_i he; subst he
        simp only [Memory.wf, Bool.and_eq_true, List.all_eq_true, decide_eq_true_eq]
        exact ⟨hall, hm⟩
      · rename_i he
        simp only [Memory.wf, Bool.and_eq_true, List.all_eq_true, decide_eq_true_eq]
        refine ⟨fun c hc => ?_, ih hm⟩
        rcases Memory.mem_write hc with hc | hc
        · subst hc; simp only; omega
        · exact hall c hc

/-- Two canonical memories that read alike at every address are the same data. -/
theorem Memory.ext_of_wf {m n : Memory} (hm : Memory.wf m = true) (hn : Memory.wf n = true)
    (h : ∀ a, Memory.read m a = Memory.read n a) : m = n := by
  have absent : ∀ (k : Memory) (a : Nat), (∀ c ∈ k, a < c.1) → Memory.read k a = none := by
    intro k a
    induction k with
    | nil => intro _; rfl
    | cons c k ih =>
      intro hk
      have hc := hk c List.mem_cons_self
      obtain ⟨b, w⟩ := c
      simp only [Memory.read]
      rw [if_neg (by simp only at hc; omega)]
      exact ih fun c hc => hk c (List.mem_cons_of_mem _ hc)
  induction m generalizing n with
  | nil =>
    cases n with
    | nil => rfl
    | cons c n => obtain ⟨b, w⟩ := c; have := h b; simp [Memory.read] at this
  | cons c m ih =>
    obtain ⟨a, v⟩ := c
    simp only [Memory.wf, Bool.and_eq_true, List.all_eq_true, decide_eq_true_eq] at hm
    cases n with
    | nil => have := h a; simp [Memory.read] at this
    | cons d n =>
      obtain ⟨b, w⟩ := d
      simp only [Memory.wf, Bool.and_eq_true, List.all_eq_true, decide_eq_true_eq] at hn
      have hab : a = b := by
        rcases Nat.lt_trichotomy a b with hlt | heq | hgt
        · have := h a
          rw [absent ((b, w) :: n) a (by
            intro c hc
            rcases List.mem_cons.1 hc with hc | hc
            · subst hc; exact hlt
            · exact lt_trans hlt (hn.1 c hc))] at this
          simp [Memory.read] at this
        · exact heq
        · have := h b
          rw [absent ((a, v) :: m) b (by
            intro c hc
            rcases List.mem_cons.1 hc with hc | hc
            · subst hc; exact hgt
            · exact lt_trans hgt (hm.1 c hc))] at this
          simp [Memory.read] at this
      subst hab
      have hvw : v = w := by simpa [Memory.read] using h a
      subst hvw
      congr 1
      refine ih hm.2 hn.2 fun x => ?_
      by_cases hx : x = a
      · subst hx; rw [absent m x hm.1, absent n x hn.1]
      · simpa [Memory.read, hx] using h x

end Sys2Proof.Machine
end

