-- ==== Sys2Proof/Laws/State.lean ====
section
/-! SUPPORT. One lemma per field per named update of the state (Machine/Ops.lean). -/

namespace Sys2Proof.Machine

section emitBitFields
variable (s : State) (x : Bool)

@[simp] theorem emitBit_cfg : (emitBit s x).cfg = s.cfg := rfl
@[simp] theorem emitBit_rom : (emitBit s x).rom = s.rom := rfl
@[simp] theorem emitBit_name : (emitBit s x).name = s.name := rfl
@[simp] theorem emitBit_alfn : (emitBit s x).alfn = s.alfn := rfl
@[simp] theorem emitBit_status : (emitBit s x).status = s.status := rfl
@[simp] theorem emitBit_crc : (emitBit s x).crc = s.crc := rfl
@[simp] theorem emitBit_bb : (emitBit s x).bb = s.bb ++ [x] := rfl
@[simp] theorem emitBit_upc : (emitBit s x).upc = s.upc := rfl
@[simp] theorem emitBit_blk : (emitBit s x).blk = s.blk := rfl
@[simp] theorem emitBit_frm : (emitBit s x).frm = s.frm := rfl
@[simp] theorem emitBit_pos : (emitBit s x).pos = s.pos + 1 := rfl
@[simp] theorem emitBit_nreq : (emitBit s x).nreq = s.nreq := rfl
@[simp] theorem emitBit_outBase : (emitBit s x).outBase = s.outBase := rfl
@[simp] theorem emitBit_phase : (emitBit s x).phase = s.phase := rfl
@[simp] theorem emitBit_mem : (emitBit s x).mem = Memory.write s.mem (outAddress s) (unitOf x) := rfl
@[simp] theorem emitBit_rst : (emitBit s x).rst = s.rst := rfl
@[simp] theorem emitBit_cmd : (emitBit s x).cmd = s.cmd := rfl
@[simp] theorem emitBit_cmdBase : (emitBit s x).cmdBase = s.cmdBase := rfl
@[simp] theorem emitBit_rsp : (emitBit s x).rsp = s.rsp := rfl
@[simp] theorem emitBit_freeCount : (emitBit s x).freeCount = s.freeCount := rfl

end emitBitFields

section advanceFields
variable (s : State)

@[simp] theorem advance_cfg : (advance s).cfg = s.cfg := rfl
@[simp] theorem advance_rom : (advance s).rom = s.rom := rfl
@[simp] theorem advance_name : (advance s).name = s.name := rfl
@[simp] theorem advance_alfn : (advance s).alfn = s.alfn := rfl
@[simp] theorem advance_status : (advance s).status = s.status := rfl
@[simp] theorem advance_crc : (advance s).crc = s.crc := rfl
@[simp] theorem advance_bb : (advance s).bb = s.bb := rfl
@[simp] theorem advance_upc : (advance s).upc = s.upc + 1 := rfl
@[simp] theorem advance_blk : (advance s).blk = s.blk := rfl
@[simp] theorem advance_frm : (advance s).frm = s.frm := rfl
@[simp] theorem advance_pos : (advance s).pos = s.pos := rfl
@[simp] theorem advance_nreq : (advance s).nreq = s.nreq := rfl
@[simp] theorem advance_outBase : (advance s).outBase = s.outBase := rfl
@[simp] theorem advance_phase : (advance s).phase = s.phase := rfl
@[simp] theorem advance_mem : (advance s).mem = s.mem := rfl
@[simp] theorem advance_rst : (advance s).rst = s.rst := rfl
@[simp] theorem advance_cmd : (advance s).cmd = s.cmd := rfl
@[simp] theorem advance_cmdBase : (advance s).cmdBase = s.cmdBase := rfl
@[simp] theorem advance_rsp : (advance s).rsp = s.rsp := rfl
@[simp] theorem advance_freeCount : (advance s).freeCount = s.freeCount := rfl

end advanceFields

section respondFields
variable (s : State) (v : Word64)

@[simp] theorem respond_cfg : (respond s v).cfg = s.cfg := rfl
@[simp] theorem respond_rom : (respond s v).rom = s.rom := rfl
@[simp] theorem respond_name : (respond s v).name = s.name := rfl
@[simp] theorem respond_alfn : (respond s v).alfn = s.alfn := rfl
@[simp] theorem respond_status : (respond s v).status = s.status := rfl
@[simp] theorem respond_crc : (respond s v).crc = s.crc := rfl
@[simp] theorem respond_bb : (respond s v).bb = s.bb := rfl
@[simp] theorem respond_upc : (respond s v).upc = s.upc := rfl
@[simp] theorem respond_blk : (respond s v).blk = s.blk := rfl
@[simp] theorem respond_frm : (respond s v).frm = s.frm := rfl
@[simp] theorem respond_pos : (respond s v).pos = s.pos := rfl
@[simp] theorem respond_nreq : (respond s v).nreq = s.nreq := rfl
@[simp] theorem respond_outBase : (respond s v).outBase = s.outBase := rfl
@[simp] theorem respond_phase : (respond s v).phase = s.phase := rfl
@[simp] theorem respond_mem : (respond s v).mem = s.mem := rfl
@[simp] theorem respond_rst : (respond s v).rst = s.rst := rfl
@[simp] theorem respond_cmd : (respond s v).cmd = s.cmd := rfl
@[simp] theorem respond_cmdBase : (respond s v).cmdBase = s.cmdBase := rfl
@[simp] theorem respond_rsp : (respond s v).rsp = some v := rfl
@[simp] theorem respond_freeCount : (respond s v).freeCount = s.freeCount := rfl

end respondFields

section raiseFaultFields
variable (s : State) (code : BitVec 4)

@[simp] theorem raiseFault_cfg : (raiseFault s code).cfg = s.cfg := rfl
@[simp] theorem raiseFault_rom : (raiseFault s code).rom = s.rom := rfl
@[simp] theorem raiseFault_name : (raiseFault s code).name = s.name := rfl
@[simp] theorem raiseFault_alfn : (raiseFault s code).alfn = s.alfn := rfl
@[simp] theorem raiseFault_status : (raiseFault s code).status = recordFault s.status code := rfl
@[simp] theorem raiseFault_crc : (raiseFault s code).crc = s.crc := rfl
@[simp] theorem raiseFault_bb : (raiseFault s code).bb = s.bb := rfl
@[simp] theorem raiseFault_upc : (raiseFault s code).upc = s.upc := rfl
@[simp] theorem raiseFault_blk : (raiseFault s code).blk = s.blk := rfl
@[simp] theorem raiseFault_frm : (raiseFault s code).frm = s.frm := rfl
@[simp] theorem raiseFault_pos : (raiseFault s code).pos = s.pos := rfl
@[simp] theorem raiseFault_nreq : (raiseFault s code).nreq = s.nreq := rfl
@[simp] theorem raiseFault_outBase : (raiseFault s code).outBase = s.outBase := rfl
@[simp] theorem raiseFault_phase : (raiseFault s code).phase = .idle := rfl
@[simp] theorem raiseFault_mem : (raiseFault s code).mem = s.mem := rfl
@[simp] theorem raiseFault_rst : (raiseFault s code).rst = s.rst := rfl
@[simp] theorem raiseFault_cmd : (raiseFault s code).cmd = s.cmd := rfl
@[simp] theorem raiseFault_cmdBase : (raiseFault s code).cmdBase = s.cmdBase := rfl
@[simp] theorem raiseFault_rsp : (raiseFault s code).rsp = some 0 := rfl
@[simp] theorem raiseFault_freeCount : (raiseFault s code).freeCount = s.freeCount := rfl

end raiseFaultFields

section acceptCommandFields
variable (s : State)

@[simp] theorem acceptCommand_cfg : (acceptCommand s).cfg = s.cfg := rfl
@[simp] theorem acceptCommand_rom : (acceptCommand s).rom = s.rom := rfl
@[simp] theorem acceptCommand_name : (acceptCommand s).name = s.name := rfl
@[simp] theorem acceptCommand_alfn : (acceptCommand s).alfn = s.alfn := rfl
@[simp] theorem acceptCommand_status : (acceptCommand s).status = s.status := rfl
@[simp] theorem acceptCommand_crc : (acceptCommand s).crc = s.crc := rfl
@[simp] theorem acceptCommand_bb : (acceptCommand s).bb = s.bb := rfl
@[simp] theorem acceptCommand_upc : (acceptCommand s).upc = s.upc := rfl
@[simp] theorem acceptCommand_blk : (acceptCommand s).blk = s.blk := rfl
@[simp] theorem acceptCommand_frm : (acceptCommand s).frm = s.frm := rfl
@[simp] theorem acceptCommand_pos : (acceptCommand s).pos = s.pos := rfl
@[simp] theorem acceptCommand_nreq : (acceptCommand s).nreq = s.nreq := rfl
@[simp] theorem acceptCommand_outBase : (acceptCommand s).outBase = s.outBase := rfl
@[simp] theorem acceptCommand_phase : (acceptCommand s).phase = s.phase := rfl
@[simp] theorem acceptCommand_mem : (acceptCommand s).mem = s.mem := rfl
@[simp] theorem acceptCommand_rst : (acceptCommand s).rst = s.rst := rfl
@[simp] theorem acceptCommand_cmd : (acceptCommand s).cmd = none := rfl
@[simp] theorem acceptCommand_cmdBase : (acceptCommand s).cmdBase = s.cmdBase := rfl
@[simp] theorem acceptCommand_rsp : (acceptCommand s).rsp = none := rfl
@[simp] theorem acceptCommand_freeCount : (acceptCommand s).freeCount = s.freeCount := rfl

end acceptCommandFields

section beginFrameFields
variable (s : State)

@[simp] theorem beginFrame_cfg : (beginFrame s).cfg = s.cfg := rfl
@[simp] theorem beginFrame_rom : (beginFrame s).rom = s.rom := rfl
@[simp] theorem beginFrame_name : (beginFrame s).name = s.name := rfl
@[simp] theorem beginFrame_alfn : (beginFrame s).alfn = s.alfn := rfl
@[simp] theorem beginFrame_status : (beginFrame s).status = s.status := rfl
@[simp] theorem beginFrame_crc : (beginFrame s).crc = s.crc := rfl
@[simp] theorem beginFrame_bb : (beginFrame s).bb = s.bb := rfl
@[simp] theorem beginFrame_upc : (beginFrame s).upc = 0 := rfl
@[simp] theorem beginFrame_blk : (beginFrame s).blk = 0 := rfl
@[simp] theorem beginFrame_frm : (beginFrame s).frm = s.frm := rfl
@[simp] theorem beginFrame_pos : (beginFrame s).pos = s.pos := rfl
@[simp] theorem beginFrame_nreq : (beginFrame s).nreq = s.nreq := rfl
@[simp] theorem beginFrame_outBase : (beginFrame s).outBase = s.outBase := rfl
@[simp] theorem beginFrame_phase : (beginFrame s).phase = s.phase := rfl
@[simp] theorem beginFrame_mem : (beginFrame s).mem = s.mem := rfl
@[simp] theorem beginFrame_rst : (beginFrame s).rst = s.rst := rfl
@[simp] theorem beginFrame_cmd : (beginFrame s).cmd = s.cmd := rfl
@[simp] theorem beginFrame_cmdBase : (beginFrame s).cmdBase = s.cmdBase := rfl
@[simp] theorem beginFrame_rsp : (beginFrame s).rsp = s.rsp := rfl
@[simp] theorem beginFrame_freeCount : (beginFrame s).freeCount = s.freeCount := rfl

end beginFrameFields

section beginEncodeFields
variable (s : State) (n : BitVec 60)

@[simp] theorem beginEncode_cfg : (beginEncode s n).cfg = s.cfg := rfl
@[simp] theorem beginEncode_rom : (beginEncode s n).rom = s.rom := rfl
@[simp] theorem beginEncode_name : (beginEncode s n).name = s.name := rfl
@[simp] theorem beginEncode_alfn : (beginEncode s n).alfn = s.alfn := rfl
@[simp] theorem beginEncode_status : (beginEncode s n).status = s.status := rfl
@[simp] theorem beginEncode_crc : (beginEncode s n).crc = s.crc := rfl
@[simp] theorem beginEncode_bb : (beginEncode s n).bb = s.bb := rfl
@[simp] theorem beginEncode_upc : (beginEncode s n).upc = s.upc := rfl
@[simp] theorem beginEncode_blk : (beginEncode s n).blk = s.blk := rfl
@[simp] theorem beginEncode_frm : (beginEncode s n).frm = s.frm := rfl
@[simp] theorem beginEncode_pos : (beginEncode s n).pos = 0 := rfl
@[simp] theorem beginEncode_nreq : (beginEncode s n).nreq = n := rfl
@[simp] theorem beginEncode_outBase : (beginEncode s n).outBase = s.cmdBase := rfl
@[simp] theorem beginEncode_phase : (beginEncode s n).phase = .run := rfl
@[simp] theorem beginEncode_mem : (beginEncode s n).mem = s.mem := rfl
@[simp] theorem beginEncode_rst : (beginEncode s n).rst = s.rst := rfl
@[simp] theorem beginEncode_cmd : (beginEncode s n).cmd = s.cmd := rfl
@[simp] theorem beginEncode_cmdBase : (beginEncode s n).cmdBase = s.cmdBase := rfl
@[simp] theorem beginEncode_rsp : (beginEncode s n).rsp = s.rsp := rfl
@[simp] theorem beginEncode_freeCount : (beginEncode s n).freeCount = s.freeCount := rfl

end beginEncodeFields

section finishEncodeFields
variable (s : State)

@[simp] theorem finishEncode_cfg : (finishEncode s).cfg = s.cfg := rfl
@[simp] theorem finishEncode_rom : (finishEncode s).rom = s.rom := rfl
@[simp] theorem finishEncode_name : (finishEncode s).name = s.name := rfl
@[simp] theorem finishEncode_alfn : (finishEncode s).alfn = s.alfn := rfl
@[simp] theorem finishEncode_status : (finishEncode s).status = s.status := rfl
@[simp] theorem finishEncode_crc : (finishEncode s).crc = s.crc := rfl
@[simp] theorem finishEncode_bb : (finishEncode s).bb = s.bb := rfl
@[simp] theorem finishEncode_upc : (finishEncode s).upc = s.upc := rfl
@[simp] theorem finishEncode_blk : (finishEncode s).blk = s.blk := rfl
@[simp] theorem finishEncode_frm : (finishEncode s).frm = s.frm := rfl
@[simp] theorem finishEncode_pos : (finishEncode s).pos = s.pos := rfl
@[simp] theorem finishEncode_nreq : (finishEncode s).nreq = s.nreq := rfl
@[simp] theorem finishEncode_outBase : (finishEncode s).outBase = s.outBase := rfl
@[simp] theorem finishEncode_phase : (finishEncode s).phase = .idle := rfl
@[simp] theorem finishEncode_mem : (finishEncode s).mem = s.mem := rfl
@[simp] theorem finishEncode_rst : (finishEncode s).rst = s.rst := rfl
@[simp] theorem finishEncode_cmd : (finishEncode s).cmd = s.cmd := rfl
@[simp] theorem finishEncode_cmdBase : (finishEncode s).cmdBase = s.cmdBase := rfl
@[simp] theorem finishEncode_rsp : (finishEncode s).rsp = some (s.nreq.setWidth 64) := rfl
@[simp] theorem finishEncode_freeCount : (finishEncode s).freeCount = s.freeCount := rfl

end finishEncodeFields

section stepAlfnFields
variable (s : State)

@[simp] theorem stepAlfn_cfg : (stepAlfn s).cfg = s.cfg := rfl
@[simp] theorem stepAlfn_rom : (stepAlfn s).rom = s.rom := rfl
@[simp] theorem stepAlfn_name : (stepAlfn s).name = s.name := rfl
@[simp] theorem stepAlfn_alfn : (stepAlfn s).alfn = s.cfg.alfnWord (s.alfn.toNat + 1) := rfl
@[simp] theorem stepAlfn_status : (stepAlfn s).status = s.status := rfl
@[simp] theorem stepAlfn_crc : (stepAlfn s).crc = s.crc := rfl
@[simp] theorem stepAlfn_bb : (stepAlfn s).bb = s.bb := rfl
@[simp] theorem stepAlfn_upc : (stepAlfn s).upc = s.upc := rfl
@[simp] theorem stepAlfn_blk : (stepAlfn s).blk = s.blk := rfl
@[simp] theorem stepAlfn_frm : (stepAlfn s).frm = s.frm := rfl
@[simp] theorem stepAlfn_pos : (stepAlfn s).pos = s.pos := rfl
@[simp] theorem stepAlfn_nreq : (stepAlfn s).nreq = s.nreq := rfl
@[simp] theorem stepAlfn_outBase : (stepAlfn s).outBase = s.outBase := rfl
@[simp] theorem stepAlfn_phase : (stepAlfn s).phase = s.phase := rfl
@[simp] theorem stepAlfn_mem : (stepAlfn s).mem = s.mem := rfl
@[simp] theorem stepAlfn_rst : (stepAlfn s).rst = s.rst := rfl
@[simp] theorem stepAlfn_cmd : (stepAlfn s).cmd = s.cmd := rfl
@[simp] theorem stepAlfn_cmdBase : (stepAlfn s).cmdBase = s.cmdBase := rfl
@[simp] theorem stepAlfn_rsp : (stepAlfn s).rsp = s.rsp := rfl
@[simp] theorem stepAlfn_freeCount : (stepAlfn s).freeCount = s.freeCount := rfl

end stepAlfnFields

section constructFields
variable (s : State) (p : RstInputs)

@[simp] theorem construct_cfg : (construct s p).cfg = s.cfg := rfl
@[simp] theorem construct_rom : (construct s p).rom = s.rom := rfl
@[simp] theorem construct_name : (construct s p).name = p.nameIn := rfl
@[simp] theorem construct_alfn : (construct s p).alfn = s.cfg.alfnWord p.alfnIn.toNat := rfl
@[simp] theorem construct_status : (construct s p).status = 0 := rfl
@[simp] theorem construct_crc : (construct s p).crc = 0 := rfl
@[simp] theorem construct_bb : (construct s p).bb = [] := rfl
@[simp] theorem construct_upc : (construct s p).upc = 0 := rfl
@[simp] theorem construct_blk : (construct s p).blk = 0 := rfl
@[simp] theorem construct_frm : (construct s p).frm = 0 := rfl
@[simp] theorem construct_pos : (construct s p).pos = 0 := rfl
@[simp] theorem construct_nreq : (construct s p).nreq = 0 := rfl
@[simp] theorem construct_outBase : (construct s p).outBase = Config.outBaseAfterReset s.freeCount := rfl
@[simp] theorem construct_phase : (construct s p).phase = .idle := rfl
@[simp] theorem construct_mem : (construct s p).mem = s.mem := rfl
@[simp] theorem construct_rst : (construct s p).rst = none := rfl
@[simp] theorem construct_cmd : (construct s p).cmd = s.cmd := rfl
@[simp] theorem construct_cmdBase : (construct s p).cmdBase = s.cmdBase := rfl
@[simp] theorem construct_rsp : (construct s p).rsp = none := rfl
@[simp] theorem construct_freeCount : (construct s p).freeCount = s.freeCount + 1 := rfl

end constructFields

section presentCommandFields
variable (s : State) (w : Word64) (base : Nat)

@[simp] theorem presentCommand_cfg : (presentCommand s w base).cfg = s.cfg := rfl
@[simp] theorem presentCommand_rom : (presentCommand s w base).rom = s.rom := rfl
@[simp] theorem presentCommand_name : (presentCommand s w base).name = s.name := rfl
@[simp] theorem presentCommand_alfn : (presentCommand s w base).alfn = s.alfn := rfl
@[simp] theorem presentCommand_status : (presentCommand s w base).status = s.status := rfl
@[simp] theorem presentCommand_crc : (presentCommand s w base).crc = s.crc := rfl
@[simp] theorem presentCommand_bb : (presentCommand s w base).bb = s.bb := rfl
@[simp] theorem presentCommand_upc : (presentCommand s w base).upc = s.upc := rfl
@[simp] theorem presentCommand_blk : (presentCommand s w base).blk = s.blk := rfl
@[simp] theorem presentCommand_frm : (presentCommand s w base).frm = s.frm := rfl
@[simp] theorem presentCommand_pos : (presentCommand s w base).pos = s.pos := rfl
@[simp] theorem presentCommand_nreq : (presentCommand s w base).nreq = s.nreq := rfl
@[simp] theorem presentCommand_outBase : (presentCommand s w base).outBase = s.outBase := rfl
@[simp] theorem presentCommand_phase : (presentCommand s w base).phase = s.phase := rfl
@[simp] theorem presentCommand_mem : (presentCommand s w base).mem = s.mem := rfl
@[simp] theorem presentCommand_rst : (presentCommand s w base).rst = s.rst := rfl
@[simp] theorem presentCommand_cmd : (presentCommand s w base).cmd = some w := rfl
@[simp] theorem presentCommand_cmdBase : (presentCommand s w base).cmdBase = base := rfl
@[simp] theorem presentCommand_rsp : (presentCommand s w base).rsp = s.rsp := rfl
@[simp] theorem presentCommand_freeCount : (presentCommand s w base).freeCount = s.freeCount := rfl

end presentCommandFields

section presentResetFields
variable (s : State) (p : RstInputs)

@[simp] theorem presentReset_cfg : (presentReset s p).cfg = s.cfg := rfl
@[simp] theorem presentReset_rom : (presentReset s p).rom = s.rom := rfl
@[simp] theorem presentReset_name : (presentReset s p).name = s.name := rfl
@[simp] theorem presentReset_alfn : (presentReset s p).alfn = s.alfn := rfl
@[simp] theorem presentReset_status : (presentReset s p).status = s.status := rfl
@[simp] theorem presentReset_crc : (presentReset s p).crc = s.crc := rfl
@[simp] theorem presentReset_bb : (presentReset s p).bb = s.bb := rfl
@[simp] theorem presentReset_upc : (presentReset s p).upc = s.upc := rfl
@[simp] theorem presentReset_blk : (presentReset s p).blk = s.blk := rfl
@[simp] theorem presentReset_frm : (presentReset s p).frm = s.frm := rfl
@[simp] theorem presentReset_pos : (presentReset s p).pos = s.pos := rfl
@[simp] theorem presentReset_nreq : (presentReset s p).nreq = s.nreq := rfl
@[simp] theorem presentReset_outBase : (presentReset s p).outBase = s.outBase := rfl
@[simp] theorem presentReset_phase : (presentReset s p).phase = s.phase := rfl
@[simp] theorem presentReset_mem : (presentReset s p).mem = s.mem := rfl
@[simp] theorem presentReset_rst : (presentReset s p).rst = some p := rfl
@[simp] theorem presentReset_cmd : (presentReset s p).cmd = s.cmd := rfl
@[simp] theorem presentReset_cmdBase : (presentReset s p).cmdBase = s.cmdBase := rfl
@[simp] theorem presentReset_rsp : (presentReset s p).rsp = s.rsp := rfl
@[simp] theorem presentReset_freeCount : (presentReset s p).freeCount = s.freeCount := rfl

end presentResetFields

@[simp] theorem emitBits_cfg (xs : List Bool) : ∀ s : State, (emitBits s xs).cfg = s.cfg := by
  induction xs with
  | nil => intro s; rfl
  | cons x xs ih => intro s; exact (ih (emitBit s x)).trans rfl

@[simp] theorem emitBits_rom (xs : List Bool) : ∀ s : State, (emitBits s xs).rom = s.rom := by
  induction xs with
  | nil => intro s; rfl
  | cons x xs ih => intro s; exact (ih (emitBit s x)).trans rfl

@[simp] theorem emitBits_name (xs : List Bool) : ∀ s : State, (emitBits s xs).name = s.name := by
  induction xs with
  | nil => intro s; rfl
  | cons x xs ih => intro s; exact (ih (emitBit s x)).trans rfl

@[simp] theorem emitBits_alfn (xs : List Bool) : ∀ s : State, (emitBits s xs).alfn = s.alfn := by
  induction xs with
  | nil => intro s; rfl
  | cons x xs ih => intro s; exact (ih (emitBit s x)).trans rfl

@[simp] theorem emitBits_status (xs : List Bool) : ∀ s : State, (emitBits s xs).status = s.status := by
  induction xs with
  | nil => intro s; rfl
  | cons x xs ih => intro s; exact (ih (emitBit s x)).trans rfl

@[simp] theorem emitBits_crc (xs : List Bool) : ∀ s : State, (emitBits s xs).crc = s.crc := by
  induction xs with
  | nil => intro s; rfl
  | cons x xs ih => intro s; exact (ih (emitBit s x)).trans rfl

@[simp] theorem emitBits_upc (xs : List Bool) : ∀ s : State, (emitBits s xs).upc = s.upc := by
  induction xs with
  | nil => intro s; rfl
  | cons x xs ih => intro s; exact (ih (emitBit s x)).trans rfl

@[simp] theorem emitBits_blk (xs : List Bool) : ∀ s : State, (emitBits s xs).blk = s.blk := by
  induction xs with
  | nil => intro s; rfl
  | cons x xs ih => intro s; exact (ih (emitBit s x)).trans rfl

@[simp] theorem emitBits_frm (xs : List Bool) : ∀ s : State, (emitBits s xs).frm = s.frm := by
  induction xs with
  | nil => intro s; rfl
  | cons x xs ih => intro s; exact (ih (emitBit s x)).trans rfl

@[simp] theorem emitBits_nreq (xs : List Bool) : ∀ s : State, (emitBits s xs).nreq = s.nreq := by
  induction xs with
  | nil => intro s; rfl
  | cons x xs ih => intro s; exact (ih (emitBit s x)).trans rfl

@[simp] theorem emitBits_outBase (xs : List Bool) : ∀ s : State, (emitBits s xs).outBase = s.outBase := by
  induction xs with
  | nil => intro s; rfl
  | cons x xs ih => intro s; exact (ih (emitBit s x)).trans rfl

@[simp] theorem emitBits_phase (xs : List Bool) : ∀ s : State, (emitBits s xs).phase = s.phase := by
  induction xs with
  | nil => intro s; rfl
  | cons x xs ih => intro s; exact (ih (emitBit s x)).trans rfl

@[simp] theorem emitBits_rst (xs : List Bool) : ∀ s : State, (emitBits s xs).rst = s.rst := by
  induction xs with
  | nil => intro s; rfl
  | cons x xs ih => intro s; exact (ih (emitBit s x)).trans rfl

@[simp] theorem emitBits_cmd (xs : List Bool) : ∀ s : State, (emitBits s xs).cmd = s.cmd := by
  induction xs with
  | nil => intro s; rfl
  | cons x xs ih => intro s; exact (ih (emitBit s x)).trans rfl

@[simp] theorem emitBits_cmdBase (xs : List Bool) : ∀ s : State, (emitBits s xs).cmdBase = s.cmdBase := by
  induction xs with
  | nil => intro s; rfl
  | cons x xs ih => intro s; exact (ih (emitBit s x)).trans rfl

@[simp] theorem emitBits_rsp (xs : List Bool) : ∀ s : State, (emitBits s xs).rsp = s.rsp := by
  induction xs with
  | nil => intro s; rfl
  | cons x xs ih => intro s; exact (ih (emitBit s x)).trans rfl

@[simp] theorem emitBits_freeCount (xs : List Bool) : ∀ s : State, (emitBits s xs).freeCount = s.freeCount := by
  induction xs with
  | nil => intro s; rfl
  | cons x xs ih => intro s; exact (ih (emitBit s x)).trans rfl

end Sys2Proof.Machine
end

