-- ==== Sys2Proof/Laws/Emit.lean ====
section
/-! SUPPORT. What emitting a list of bits does: to the block buffer, to the cursor, to the output region. -/

namespace Sys2Proof.Machine

@[simp] theorem fieldBits_length (v w : Nat) : (fieldBits v w).length = w := by
  induction w with
  | zero => rfl
  | succ w ih => simp [fieldBits, ih]

@[simp] theorem charBits_length (ch : Byte) : (charBits ch).length = 5 := by simp [charBits, wChar]

@[simp] theorem nameBits_length (name : Vector Byte 32) : (nameBits name).length = 160 := by
  simp [nameBits, List.length_flatMap]

/-- The `i`-th emitted bit of a field is its bit `w − 1 − i` (R13). -/
theorem fieldBits_getElem (v w i : Nat) (h : i < (fieldBits v w).length) :
    (fieldBits v w)[i] = v.testBit (w - 1 - i) := by
  induction w generalizing i with
  | zero => simp at h
  | succ w ih =>
    cases i with
    | zero => simp [fieldBits]
    | succ i =>
      simp only [fieldBits, List.getElem_cons_succ]
      rw [ih i (by simpa [fieldBits] using h)]
      congr 1; omega

@[simp] theorem emitBits_nil (s : State) : emitBits s [] = s := rfl

@[simp] theorem emitBits_cons (s : State) (x : Bool) (xs : List Bool) :
    emitBits s (x :: xs) = emitBits (emitBit s x) xs := rfl

theorem emitBits_append (s : State) (xs ys : List Bool) :
    emitBits s (xs ++ ys) = emitBits (emitBits s xs) ys := by simp [emitBits]

@[simp] theorem emitBits_bb (xs : List Bool) : ∀ s : State, (emitBits s xs).bb = s.bb ++ xs := by
  induction xs with
  | nil => intro s; simp
  | cons x xs ih => intro s; simp [ih]

@[simp] theorem emitBits_pos (xs : List Bool) :
    ∀ s : State, (emitBits s xs).pos = s.pos + BitVec.ofNat 60 xs.length := by
  induction xs with
  | nil => intro s; simp
  | cons x xs ih =>
    intro s
    simp only [emitBits_cons, ih, emitBit_pos, List.length_cons]
    apply BitVec.eq_of_toNat_eq
    simp [BitVec.toNat_add, BitVec.toNat_ofNat]
    omega

/-- Emitting keeps the canonical form of the output region. -/
theorem emitBits_mem_wf (xs : List Bool) :
    ∀ s : State, Memory.wf s.mem = true → Memory.wf (emitBits s xs).mem = true := by
  induction xs with
  | nil => intro s h; exact h
  | cons x xs ih => intro s h; exact ih _ (Memory.write_wf _ _ h)

/-- While the cursor does not wrap, the units from `OUT_BASE + POS` on hold the emitted bits and every other
unit is as before. -/
theorem emitBits_unitAt (xs : List Bool) :
    ∀ s : State, s.pos.toNat + xs.length ≤ 2 ^ 60 → ∀ a,
      unitAt (emitBits s xs) a =
        if h : outAddress s ≤ a ∧ a < outAddress s + xs.length
        then some (unitOf (xs[a - outAddress s]'(by omega))) else unitAt s a := by
  induction xs with
  | nil => intro s _ a; simp
  | cons x xs ih =>
    intro s hpos a
    simp only [List.length_cons] at hpos
    by_cases hxs : xs = []
    · subst hxs
      simp only [emitBits_cons, emitBits_nil, unitAt, emitBit_mem, Memory.read_write, List.length_cons,
        List.length_nil]
      by_cases ha : a = outAddress s
      · subst ha; simp
      · rw [if_neg ha, dif_neg (by omega)]
    · have hlen : 0 < xs.length := List.length_pos_iff.2 hxs
      have hnext : outAddress (emitBit s x) = outAddress s + 1 := by
        have hs : (s.pos + 1).toNat = s.pos.toNat + 1 := by
          rw [BitVec.toNat_add]; exact Nat.mod_eq_of_lt (by simp; omega)
        simp only [outAddress, emitBit_outBase, emitBit_pos, hs]; omega
      have hp : (emitBit s x).pos.toNat + xs.length ≤ 2 ^ 60 := by
        have h1 := hnext
        simp only [outAddress, emitBit_outBase] at h1
        omega
      rw [emitBits_cons, ih (emitBit s x) hp a]
      simp only [hnext, List.length_cons]
      by_cases h1 : outAddress s + 1 ≤ a ∧ a < outAddress s + 1 + xs.length
      · rw [dif_pos h1, dif_pos (by omega)]
        congr 2
        have : a - outAddress s = (a - (outAddress s + 1)) + 1 := by omega
        simp only [this, List.getElem_cons_succ]
      · rw [dif_neg h1]
        simp only [unitAt, emitBit_mem, Memory.read_write]
        by_cases ha : a = outAddress s
        · subst ha; simp
        · rw [if_neg ha, dif_neg (by omega)]

end Sys2Proof.Machine
end

