-- ==== Sys2Proof/Laws/Ops.lean ====
section
/-! SUPPORT. One lemma per shared operation that says once everything it can do, and the cases of a step. -/

namespace Sys2Proof.Machine

/-- Emitting changes the output region, the block buffer and the cursor, and nothing else. -/
theorem emitBits_eta (xs : List Bool) : ∀ s : State, emitBits s xs =
    { s with mem := (emitBits s xs).mem, bb := (emitBits s xs).bb, pos := (emitBits s xs).pos } := by
  induction xs with
  | nil => intro s; rfl
  | cons x xs ih => intro s; rw [emitBits_cons, ih (emitBit s x)]; rfl

/-- A micro-op that emits `xs` and advances does exactly what `Emitted` says, while the cursor does not wrap. -/
theorem emitted_advance (s : State) (xs : List Bool) (h : s.pos.toNat + xs.length ≤ 2 ^ 60) :
    Emitted s (advance (emitBits s xs)) xs where
  units i hi := by
    show unitAt (emitBits s xs) _ = _
    rw [emitBits_unitAt xs s h, dif_pos (by omega)]
    simp
  others a ha := by
    show unitAt (emitBits s xs) _ = _
    rw [emitBits_unitAt xs s h, dif_neg (by omega)]
  rest := by
    rw [emitBits_eta xs s]
    simp [advance]

/-- What a fault does to STATUS: nothing after a first fault, else FAULT and the code. -/
theorem recordFault_cases (status : Word64) (code : BitVec 4) :
    (faultFlag status = true ∧ recordFault status code = status) ∨
      (faultFlag status = false ∧ recordFault status code = 0#56 ++ code ++ 0b0001#4) := by
  unfold recordFault
  cases h : faultFlag status <;> simp

/-- ENCODE's frame loop goes on with the next frame, or the ENCODE ends. -/
theorem nextFrame_cases (s : State) :
    (s.frm.toNat + 1 < framesOf s.cfg s.nreq.toNat ∧
        nextFrame s = { s with frm := s.frm + 1, blk := 0, upc := 0 }) ∨
      (framesOf s.cfg s.nreq.toNat ≤ s.frm.toNat + 1 ∧
        nextFrame s = { s with phase := .idle, rsp := some (s.nreq.setWidth 64) }) := by
  unfold nextFrame
  split
  · rename_i h; exact .inl ⟨h, rfl⟩
  · rename_i h; exact .inr ⟨by omega, rfl⟩

/-- The cases of a step, by PHASE and by the reset event. -/
theorem step_cases (s : State) :
    (∃ p, s.phase = .idle ∧ s.rst = some p ∧ step s = .next (construct s p)) ∨
      (s.phase = .run ∧ s.rst ≠ none ∧ step s = .refused .resetDuringCommand) ∨
      (s.phase = .idle ∧ s.rst = none ∧ s.cmd = none ∧ step s = .next s) ∨
      (∃ w, s.phase = .idle ∧ s.rst = none ∧ s.cmd = some w ∧
        step s = exec (decodeCommand w) (acceptCommand s)) ∨
      (s.phase = .run ∧ s.rst = none ∧ step s = stepMicro s) := by
  unfold step stepIdle
  cases hp : s.phase <;> cases hr : s.rst <;> cases hc : s.cmd <;> simp

/-- The cases of a micro-op step, by the word in ROM[UPC]. -/
theorem stepMicro_cases (s : State) :
    (fetchMicro s = none ∧ stepMicro s = .fault (.microFetchOutsideRom s.upc)) ∨
      (∃ w i, fetchMicro s = some w ∧ decodeMicro w = .ok i ∧ stepMicro s = exec i s) ∨
      (∃ w e, fetchMicro s = some w ∧ decodeMicro w = .error e ∧
        stepMicro s = .refused (.undefinedMicroWord w)) := by
  unfold stepMicro
  cases hf : fetchMicro s with
  | none => simp
  | some w => cases hd : decodeMicro w <;> simp [hd]

/-- The word in ROM[UPC], while UPC is in the range of R23. -/
theorem fetchMicro_of_lt (s : State) (h : s.upc.toNat < 12) : fetchMicro s = some s.rom[s.upc.toNat] := by
  simp [fetchMicro, h]

/-- Powering on constructs the unit, or refuses it. -/
theorem powerOn_cases (c : Config) (rom : Vector Word64 12) (p : RstInputs) :
    (c.wellFormed = true ∧ rom = c.microProgram ∧ powerOn c rom p = .next (State.constructed c rom p)) ∨
      (¬(c.wellFormed = true ∧ rom = c.microProgram) ∧ powerOn c rom p = .refused .configurationRefused) := by
  unfold powerOn
  by_cases h : c.wellFormed = true ∧ rom = c.microProgram
  · exact .inl ⟨h.1, h.2, by simp [h.1, h.2]⟩
  · refine .inr ⟨h, if_neg fun hb => h ?_⟩
    simpa using hb

/-- An ENCODE faults, ends at once, or begins its first frame. -/
theorem execEncode_cases (n : BitVec 60) (s : State) :
    (n.toNat % s.cfg.frameBits ≠ 0 ∧ execEncode n s = .next (raiseFault s invalidRequestLength)) ∨
      (n = 0 ∧ execEncode n s = .next (finishEncode (beginEncode s n))) ∨
      (n.toNat % s.cfg.frameBits = 0 ∧ 0 < framesOf s.cfg n.toNat ∧
        execEncode n s = .next (beginFrame { beginEncode s n with frm := 0 })) := by
  unfold execEncode
  by_cases hm : n.toNat % s.cfg.frameBits = 0
  · by_cases h0 : n = 0
    · exact .inr (.inl ⟨h0, by subst h0; simp⟩)
    · have hn : n.toNat ≠ 0 := fun h => h0 (BitVec.eq_of_toNat_eq (by simpa using h))
      refine .inr (.inr ⟨hm, Nat.pos_of_ne_zero fun hk => hn ?_, by rw [if_neg (not_not.2 hm), if_neg h0]⟩)
      have := Nat.div_add_mod n.toNat s.cfg.frameBits
      rw [framesOf] at hk
      rw [hk, hm] at this
      omega
  · exact .inl ⟨hm, if_pos hm⟩

end Sys2Proof.Machine
end

