-- ==== Sys2Proof/Laws/PerInstr.lean ====
section
/-! SUPPORT. The per-instruction family `RowMatch`: the word of every instruction matches its own row of
spec/opcode_table.json, its bits under the row's mask being the row's match. -/

namespace Sys2Proof.Laws

/-- The encoded instruction matches its row of the opcode table. -/
def RowMatch.Statement (i : Instr) : Prop := i.row.admits (encode i) = true

/-- A word of a 4-bit opcode and 60 bits, under a mask of the opcode alone. -/
theorem RowMatch.and_op (op : BitVec 4) (arg : BitVec 60) :
    (op ++ arg) &&& (0xF#4 ++ 0#60) = op ++ 0#60 := by
  rw [BitVec.and_append]; congr 1
  · exact BitVec.and_allOnes
  · exact BitVec.and_zero

theorem RowMatch.nop : RowMatch.Statement .nop := by unfold RowMatch.Statement; decide
theorem RowMatch.encode (n : BitVec 60) : RowMatch.Statement (.encode n) :=
  beq_iff_eq.2 (RowMatch.and_op 0x1 n)
theorem RowMatch.readAlfn : RowMatch.Statement .readAlfn := by unfold RowMatch.Statement; decide
theorem RowMatch.readStatus : RowMatch.Statement .readStatus := by unfold RowMatch.Statement; decide
theorem RowMatch.readFrameBits : RowMatch.Statement .readFrameBits := by unfold RowMatch.Statement; decide
theorem RowMatch.illegalNopArg (arg : BitVec 60) : RowMatch.Statement (.illegalNopArg arg) :=
  beq_iff_eq.2 (RowMatch.and_op 0x0 arg)
theorem RowMatch.illegalReadAlfnArg (arg : BitVec 60) : RowMatch.Statement (.illegalReadAlfnArg arg) :=
  beq_iff_eq.2 (RowMatch.and_op 0x2 arg)
theorem RowMatch.illegalReadStatusArg (arg : BitVec 60) : RowMatch.Statement (.illegalReadStatusArg arg) :=
  beq_iff_eq.2 (RowMatch.and_op 0x3 arg)
theorem RowMatch.illegalReadFrameBitsArg (arg : BitVec 60) :
    RowMatch.Statement (.illegalReadFrameBitsArg arg) :=
  beq_iff_eq.2 (RowMatch.and_op 0x4 arg)
theorem RowMatch.reservedCmd5 (arg : BitVec 60) : RowMatch.Statement (.reservedCmd5 arg) :=
  beq_iff_eq.2 (RowMatch.and_op 0x5 arg)
theorem RowMatch.reservedCmd6to7 (rest : BitVec 61) : RowMatch.Statement (.reservedCmd6to7 rest) := by
  refine beq_iff_eq.2 (?_ : (0b011#3 ++ rest) &&& (0b111#3 ++ 0#61) = 0b011#3 ++ 0#61)
  rw [BitVec.and_append]; congr 1
  · exact BitVec.and_zero
theorem RowMatch.reservedCmd8toF (rest : BitVec 63) : RowMatch.Statement (.reservedCmd8toF rest) := by
  refine beq_iff_eq.2 (?_ : (1#1 ++ rest) &&& (1#1 ++ 0#63) = 1#1 ++ 0#63)
  rw [BitVec.and_append]; congr 1
  · exact BitVec.and_zero
theorem RowMatch.bstart : RowMatch.Statement .bstart := by unfold RowMatch.Statement; decide
theorem RowMatch.emit (w : BitVec 6) (imm : BitVec 32) : RowMatch.Statement (.emit w imm) := by
  have hmask : (0xF03FFFFF00000000 : Word64) = 0xF#4 ++ 0#6 ++ 0x3FFFFF#22 ++ 0#32 := by decide
  have hpattern : (0x1000000000000000 : Word64) = 0x1#4 ++ 0#6 ++ 0#22 ++ 0#32 := by decide
  simp only [RowMatch.Statement, TableRow.admits, Instr.row, Sys2Proof.encode, beq_iff_eq]
  rw [hmask, hpattern, BitVec.and_append, BitVec.and_append, BitVec.and_append, BitVec.and_zero, BitVec.and_zero]
  rfl
theorem RowMatch.name : RowMatch.Statement .name := by unfold RowMatch.Statement; decide
theorem RowMatch.padto (imm : BitVec 32) : RowMatch.Statement (.padto imm) := by
  have hmask : (0xFFFFFFFF00000000 : Word64) = 0xF#4 ++ 0x3F#6 ++ 0x3FFFFF#22 ++ 0#32 := by decide
  have hpattern : (0x3000000000000000 : Word64) = 0x3#4 ++ 0#6 ++ 0#22 ++ 0#32 := by decide
  simp only [RowMatch.Statement, TableRow.admits, Instr.row, Sys2Proof.encode, beq_iff_eq]
  rw [hmask, hpattern, BitVec.and_append, BitVec.and_append, BitVec.and_append, BitVec.and_zero]
  rfl
theorem RowMatch.alfnsl : RowMatch.Statement .alfnsl := by unfold RowMatch.Statement; decide
theorem RowMatch.crc : RowMatch.Statement .crc := by unfold RowMatch.Statement; decide
theorem RowMatch.bend : RowMatch.Statement .bend := by unfold RowMatch.Statement; decide
theorem RowMatch.reservedMicro7 (rest : BitVec 60) : RowMatch.Statement (.reservedMicro7 rest) :=
  beq_iff_eq.2 (RowMatch.and_op 0x7 rest)
theorem RowMatch.reservedMicro8toF (rest : BitVec 63) : RowMatch.Statement (.reservedMicro8toF rest) := by
  refine beq_iff_eq.2 (?_ : (1#1 ++ rest) &&& (1#1 ++ 0#63) = 1#1 ++ 0#63)
  rw [BitVec.and_append]; congr 1
  · exact BitVec.and_zero

end Sys2Proof.Laws
end

