-- ==== Sys2Proof/Laws/Runs.lean ====
section
/-! SUPPORT. What a host action, a run and its verdict can be, once each. -/

namespace Sys2Proof.Machine

@[simp] theorem HostAction.apply_cfg (a : HostAction) (s : State) : (a.apply s).cfg = s.cfg := by cases a <;> rfl
@[simp] theorem HostAction.apply_rom (a : HostAction) (s : State) : (a.apply s).rom = s.rom := by cases a <;> rfl
@[simp] theorem HostAction.apply_name (a : HostAction) (s : State) : (a.apply s).name = s.name := by cases a <;> rfl
@[simp] theorem HostAction.apply_alfn (a : HostAction) (s : State) : (a.apply s).alfn = s.alfn := by cases a <;> rfl
@[simp] theorem HostAction.apply_status (a : HostAction) (s : State) : (a.apply s).status = s.status := by
  cases a <;> rfl
@[simp] theorem HostAction.apply_phase (a : HostAction) (s : State) : (a.apply s).phase = s.phase := by
  cases a <;> rfl
@[simp] theorem HostAction.apply_mem (a : HostAction) (s : State) : (a.apply s).mem = s.mem := by cases a <;> rfl
@[simp] theorem HostAction.apply_wait (s : State) : HostAction.wait.apply s = s := rfl

/-- Only a reset action applies the reset event. -/
theorem HostAction.apply_rst (a : HostAction) (s : State) : (∃ p, a = .reset p) ∨ (a.apply s).rst = s.rst := by
  cases a with
  | wait => exact .inr rfl
  | command w base => exact .inr rfl
  | reset p => exact .inl ⟨p, rfl⟩

/-- A step raises a fault exactly when it accepts a command that does. -/
theorem stepRaises_eq_some (s : State) (code : BitVec 4) :
    stepRaises s = some code ↔
      ∃ w, s.phase = .idle ∧ s.rst = none ∧ s.cmd = some w ∧ raises s.cfg (decodeCommand w) = some code := by
  unfold stepRaises
  cases hp : s.phase <;> cases hr : s.rst <;> cases hc : s.cmd <;> simp

/-- A run that ends in a next state began with a step that has one. -/
theorem runHost_cons {a : HostAction} {as : List HostAction} {s t : State} (h : runHost (a :: as) s = .next t) :
    ∃ v, step (a.apply s) = .next v ∧ runHost as v = .next t ∧
      runRaises (a :: as) s = ((stepRaises (a.apply s)).isSome || runRaises as v) := by
  simp only [runHost] at h
  cases hs : step (a.apply s) with
  | next v => rw [hs] at h; exact ⟨v, rfl, h, by simp only [runRaises, hs]⟩
  | fault r => rw [hs] at h; cases h
  | refused r => rw [hs] at h; cases h

/-- A run in which the host presents nothing is `runSteps`. -/
theorem runHost_wait (n : Nat) (s : State) : runHost (List.replicate n .wait) s = runSteps n s := by
  induction n generalizing s with
  | zero => rfl
  | succ n ih =>
    rw [List.replicate_succ, runHost, runSteps, HostAction.apply_wait]
    cases step s with
    | next t => exact ih t
    | fault r => rfl
    | refused r => rfl

/-- The verdict on a run: failed if a command of it faults, else by how it ends. -/
theorem runVerdict_cases (as : List HostAction) (s : State) :
    (runRaises as s = true ∧ runVerdict as s = .failed) ∨
      (runRaises as s = false ∧ ∃ t, runHost as s = .next t ∧ runVerdict as s = .succeeded t) ∨
      (runRaises as s = false ∧ (∀ t, runHost as s ≠ .next t) ∧ runVerdict as s = .stopped) := by
  unfold runVerdict
  cases runRaises as s <;> cases runHost as s <;> simp

end Sys2Proof.Machine
end

