-- ==== Sys2Proof/Tests/Slice0.lean ====
section
/-! SUPPORT. Tests of the model: ill-formed terms refused, words written out from the encodings of
spec/30_encoding.md, expected values of spec/95_test_vectors.md, and for every statement with hypotheses a
concrete state and operands that meet them. -/

namespace Sys2Proof.Tests

-- One theorem at a time: many kernel evaluations at once need more threads than the memory limit admits.
set_option Elab.async false

open Sys2Proof Sys2Proof.Machine

/-! ### Well-formedness: each check refuses an ill-formed term -/

theorem test_nop_row_wants_zero : (Instr.illegalNopArg 0).wellFormed = false := by decide
theorem test_read_alfn_row_wants_zero : (Instr.illegalReadAlfnArg 0).wellFormed = false := by decide
theorem test_read_status_row_wants_zero : (Instr.illegalReadStatusArg 0).wellFormed = false := by decide
theorem test_read_frame_bits_row_wants_zero : (Instr.illegalReadFrameBitsArg 0).wellFormed = false := by decide
theorem test_emit_width_zero : (Instr.emit 0 0).wellFormed = false := by decide
theorem test_emit_width_33 : (Instr.emit 33 0).wellFormed = false := by decide
theorem test_emit_value_too_wide : (Instr.emit 2 4).wellFormed = false := by decide
theorem test_reserved_micro_7 : (Instr.reservedMicro7 0).wellFormed = false := by decide
theorem test_reserved_micro_8 : (Instr.reservedMicro8toF 0).wellFormed = false := by decide
theorem test_emit_largest : (Instr.emit 32 0xFFFFFFFF).wellFormed = true := by decide

/-- The refused configurations of spec/95 section 2.1, and the two test instances. -/
theorem test_configurations :
    ({ Config.testInstanceA with blocksPerFrame := 0 } : Config).wellFormed = false ∧
    ({ Config.testInstanceA with pidsFormatted := 2 } : Config).wellFormed = false ∧
    ({ Config.testInstanceA with extensionFm := 4 } : Config).wellFormed = false ∧
    ({ Config.testInstanceA with wAlfn := 31 } : Config).wellFormed = false ∧
    ({ Config.testInstanceA with wAlfn := 65 } : Config).wellFormed = false ∧
    Config.testInstanceA.wellFormed = true ∧ Config.testInstanceB.wellFormed = true := by decide

/-! ### Decoding: words written out bit by bit from R45, R47, R48, R49 -/

theorem test_decode_nop : decodeCommand 0b0000000000000000000000000000000000000000000000000000000000000000 = .nop := by
  decide
theorem test_decode_encode :
    decodeCommand 0b0001000000000000000000000000000000000000000000000000110101000000 = .encode 3392 := by decide
theorem test_decode_read_alfn :
    decodeCommand 0b0010000000000000000000000000000000000000000000000000000000000000 = .readAlfn := by decide
theorem test_decode_read_status :
    decodeCommand 0b0011000000000000000000000000000000000000000000000000000000000000 = .readStatus := by decide
theorem test_decode_read_frame_bits :
    decodeCommand 0b0100000000000000000000000000000000000000000000000000000000000000 = .readFrameBits := by decide
theorem test_decode_illegal_nop :
    decodeCommand 0b0000100000000000000000000000000000000000000000000000000000000001 =
      .illegalNopArg 0x800000000000001 := by decide
theorem test_decode_illegal_read_alfn : decodeCommand 0x2000000000000001 = .illegalReadAlfnArg 1 := by decide
theorem test_decode_illegal_read_status : decodeCommand 0x3000000000000005 = .illegalReadStatusArg 5 := by decide
theorem test_decode_illegal_read_frame_bits :
    decodeCommand 0x4800000000000000 = .illegalReadFrameBitsArg 0x800000000000000 := by decide
theorem test_decode_reserved_5 : decodeCommand 0x5000000000000000 = .reservedCmd5 0 := by decide
theorem test_decode_reserved_6_7 :
    decodeCommand 0x6000000000000000 = .reservedCmd6to7 0 ∧
      decodeCommand 0x7000000000000D40 = .reservedCmd6to7 0x1000000000000D40 := by decide
theorem test_decode_reserved_8_F :
    decodeCommand 0x8000000000000000 = .reservedCmd8toF 0 ∧
      decodeCommand 0xF000000000000000 = .reservedCmd8toF 0x7000000000000000 := by decide
theorem test_decode_bstart :
    decodeMicro 0b0000000000000000000000000000000000000000000000000000000000000000 = .ok .bstart := by decide
theorem test_decode_emit :
    decodeMicro 0b0001000001000000000000000000000000000000000000000000000000000001 = .ok (.emit 1 1) ∧
      decodeMicro 0b0001100000000000000000000000000010100101101001011010010110100101 =
        .ok (.emit 32 0xA5A5A5A5) := by decide
theorem test_decode_name :
    decodeMicro 0b0010000000000000000000000000000000000000000000000000000000000000 = .ok .name := by decide
theorem test_decode_padto :
    decodeMicro 0b0011000000000000000000000000000000000000000000000000000100000000 = .ok (.padto 256) := by decide
theorem test_decode_alfnsl :
    decodeMicro 0b0100000000000000000000000000000000000000000000000000000000000000 = .ok .alfnsl := by decide
theorem test_decode_crc :
    decodeMicro 0b0101000000000000000000000000000000000000000000000000000000000000 = .ok .crc := by decide
theorem test_decode_bend :
    decodeMicro 0b0110000000000000000000000000000000000000000000000000000000000000 = .ok .bend := by decide
theorem test_decode_reserved_micro :
    decodeMicro 0x7000000000000001 = .ok (.reservedMicro7 1) ∧
      decodeMicro 0x9000000000000001 = .ok (.reservedMicro8toF 0x1000000000000001) := by decide
/-- A field that the row fixes at 0 (R48, R49): a W in PADTO, a reserved bit in EMIT, an IMM in BEND. -/
theorem test_decode_fixed_fields :
    decodeMicro 0x3040000000000100 = .error (.fixedFieldNotZero 0x3040000000000100) ∧
      decodeMicro 0x1040000100000000 = .error (.fixedFieldNotZero 0x1040000100000000) ∧
      decodeMicro 0x6000000000000001 = .error (.fixedFieldNotZero 0x6000000000000001) := by decide

theorem test_table_word :
    decodeTableWord 64 0x1000000000000D41 = some (.encode 3393) ∧ decodeTableWord 72 0 = none := by decide

/-- The ROM words of spec/95 section 2.3. -/
theorem test_rom_words :
    Config.testInstanceA.microProgram =
      #v[0x0000000000000000, 0x1040000000000000, 0x1040000000000000, 0x1800000000000001, 0x2000000000000000,
        0x1080000000000001, 0x3000000000000040, 0x1040000000000000, 0x1040000000000001, 0x4000000000000000,
        0x5000000000000000, 0x6000000000000000] ∧
    Config.testInstanceB.microProgram =
      #v[0x0000000000000000, 0x1040000000000001, 0x1040000000000001, 0x18000000A5A5A5A5, 0x2000000000000000,
        0x1080000000000002, 0x3000000000000100, 0x1040000000000000, 0x1040000000000000, 0x4000000000000000,
        0x5000000000000000, 0x6000000000000000] := by decide +kernel

/-- Statements of R52. -/
theorem test_assembler :
    assemble Config.testInstanceA (.encodeFrames 3) = some (.command 0x10000000000027C0) ∧
      assemble Config.testInstanceA (.emitBit 1) = some (.micro 0x1040000000000001) ∧
      readLine "encode 0xD40".toList = some (.encode 3392) ∧ readLine "  emit 2, 1".toList = some (.emit 2 1) ∧
      readLine ".word 0x7000000000000000".toList = some (.word 0x7000000000000000) ∧
      readLine "nop 1".toList = none := by decide +kernel
/-- R71's example, a binary literal; and that the N of `encode` is decimal or `0x` only (R52). -/
theorem test_assembler_numbers :
    readLine "emit 2, 0b01".toList = some (.emit 2 1) ∧ readLine "padto 0b100000000".toList = some (.padto 256) ∧
      readLine "emit_bit 0b2".toList = none ∧ readLine "encode 0b1".toList = none := by decide +kernel

/-! ### Operand forms -/

/-- spec/95 section 2.5, single bytes. -/
theorem test_charmap :
    charMap 0x00 = 26 ∧ charMap 0x20 = 26 ∧ charMap 0x24 = 30 ∧ charMap 0x2A = 29 ∧ charMap 0x2D = 28 ∧
      charMap 0x30 = 26 ∧ charMap 0x3F = 27 ∧ charMap 0x40 = 26 ∧ charMap 0x41 = 0 ∧ charMap 0x5A = 25 ∧
      charMap 0x5B = 26 ∧ charMap 0x60 = 26 ∧ charMap 0x61 = 0 ∧ charMap 0x7A = 25 ∧ charMap 0x7B = 26 ∧
      charMap 0xC1 = 26 := by decide

/-- spec/95 section 2.6. -/
theorem test_crc12 :
    crc12 [] = 0x955 ∧ crc12 [true] = 0x945 ∧ crc12 [true, false] = 0x945 ∧ crc12 [false, true] = 0x15D ∧
      crc12 [false, false, true] = 0xD51 ∧ crc12 [true, true] = 0x14D ∧
      crc12 (List.replicate 16 true) = 0x8C5 ∧ crc12 (List.replicate 200 true) = 0x2E7 := by decide +kernel

/-- spec/95 section 2.3, slices. -/
theorem test_slices :
    alfnSlice 0x2FAF0800 5 = 2 ∧ alfnSlice 0x2FAF0800 8 = 3 ∧ alfnSlice 0x2FAF0800 15 = 0 ∧
      alfnSlice 0xFFFFFFFF 15 = 3 ∧ alfnSlice 0xFFFFFFFF 16 = 0 ∧ alfnSlice 0x1FFFFFFFF 16 = 1 := by decide

/-! ### Small states -/

/-- NAME1 of spec/95. -/
def name1 : Vector Byte 32 :=
  #v[0x41, 0x42, 0x43, 0x44, 0x45, 0x46, 0x47, 0x48, 0x49, 0x4A, 0x4B, 0x4C, 0x4D, 0x4E, 0x4F, 0x50, 0x51, 0x52, 0x53,
    0x54, 0x55, 0x56, 0x57, 0x58, 0x59, 0x5A, 0x31, 0x32, 0x33, 0x34, 0x35, 0x36]

/-- A unit constructed with NAME1, a starting ALFN and the ROM of its configuration. -/
def unit (c : Config) (a : Word64) : State :=
  { State.constructed c c.microProgram ⟨name1, a⟩ with outBase := 0x1000 }

/-- Test instance TI-A after `construct NAME1, 800000000`. -/
def unitA : State := unit Config.testInstanceA 800000000

/-- Test instance TI-B after `construct NAME1, 0xE4`. -/
def unitB : State := unit Config.testInstanceB 0xE4

/-- TI-A with one block a frame (program P5). -/
def unitP5 : State := unit { Config.testInstanceA with blocksPerFrame := 1 } 3

/-- The unit with a command on its port, for the region at 0x1000. -/
def withCommand (s : State) (w : Word64) : State := presentCommand s w 0x1000

/-- The unit in the middle of an ENCODE of `k` frames, about to execute micro-op `upc` of block `blk` of frame
`frm`, with as many zero bits in the buffer as the micro-ops before have emitted. -/
def running (s : State) (k frm blk upc : Nat) : State :=
  let r := { s with
    phase := .run, nreq := BitVec.ofNat 60 (k * s.cfg.frameBits), frm := BitVec.ofNat 60 frm,
    blk := BitVec.ofNat 17 blk, upc := BitVec.ofNat 4 upc, bb := List.replicate (bitsBefore s.cfg upc) false }
  { r with pos := BitVec.ofNat 60 (blockStart r + bitsBefore s.cfg upc) }

/-- The response of a step, and the STATUS after it. -/
def answer : Host.Outcome State Fault Refusal → Option (Option Word64 × Word64)
  | .next t => some (t.rsp, t.status)
  | .fault _ => none
  | .refused _ => none

/-- What a step appends to the block buffer, and the POS and UPC after it. -/
def emitted (s : State) : Host.Outcome State Fault Refusal → Option (List Bool × Nat × Nat)
  | .next t => some (t.bb.drop s.bb.length, t.pos.toNat, t.upc.toNat)
  | .fault _ => none
  | .refused _ => none

/-! ### One step of each command: responses and STATUS of spec/95 section 2.2 -/

theorem test_step_nop : answer (step (withCommand unitA 0x0000000000000000)) = some (some 0, 0) := by decide +kernel
theorem test_step_nop_arg : answer (step (withCommand unitA 0x0000000000000001)) = some (some 0, 0x21) := by
  decide +kernel
theorem test_step_read_alfn : answer (step (withCommand unitA 0x2000000000000000)) = some (some 0x2FAF0800, 0) := by
  decide +kernel
theorem test_step_read_alfn_arg : answer (step (withCommand unitA 0x2000000000000001)) = some (some 0, 0x21) := by
  decide +kernel
theorem test_step_read_status :
    answer (step (withCommand { unitA with status := 0x11 } 0x3000000000000000)) = some (some 0x11, 0x11) := by
  decide +kernel
theorem test_step_read_status_arg : answer (step (withCommand unitA 0x3000000000000005)) = some (some 0, 0x21) := by
  decide +kernel
theorem test_step_read_frame_bits :
    answer (step (withCommand unitA 0x4000000000000000)) = some (some 0xD40, 0) ∧
      answer (step (withCommand unitB 0x4000000000000000)) = some (some 0x440, 0) := by decide +kernel
theorem test_step_read_frame_bits_arg :
    answer (step (withCommand unitA 0x4000000000000001)) = some (some 0, 0x21) := by decide +kernel
theorem test_step_encode_empty : answer (step (withCommand unitA 0x1000000000000000)) = some (some 0, 0) := by
  decide +kernel
theorem test_step_encode_bad :
    answer (step (withCommand unitA 0x1000000000000D41)) = some (some 0, 0x11) ∧
      answer (step (withCommand unitA 0x1FFFFFFFFFFFFFFF)) = some (some 0, 0x11) ∧
      answer (step (withCommand { unitA with status := 0x21 } 0x1000000000000D41)) = some (some 0, 0x21) := by
  decide +kernel
theorem test_step_reserved_5 :
    answer (step (withCommand { unitA with status := 0x11 } 0x5000000000000000)) = some (some 0, 0x11) := by
  decide +kernel
theorem test_step_reserved_6_7 : answer (step (withCommand unitA 0x7000000000000D40)) = some (some 0, 0x21) := by
  decide +kernel
theorem test_step_reserved_8_F : answer (step (withCommand unitA 0xF000000000000000)) = some (some 0, 0x21) := by
  decide +kernel

/-- From the state after reset: the first step runs the word placed on the port, whatever the configuration. -/
theorem test_reset_runs_commands :
    answer (step (State.reset.withFetchWord 64 0)) = some (some 0, 0) ∧
      answer (step (State.reset.withFetchWord 64 0x1000000000000000)) = some (some 0, 0) ∧
      answer (step (State.reset.withFetchWord 64 0x7000000000000000)) = some (some 0, 0x21) := by decide +kernel

/-- `rst` in the middle of an ENCODE has no move (R99). -/
theorem test_reset_while_running :
    step { running unitA 1 0 0 0 with rst := some ⟨name1, 0⟩ } = .refused .resetDuringCommand := by rfl

/-! ### One step of each micro-op: the trace of spec/95 section 2.9, block 1 of TI-B -/

theorem test_step_bstart : emitted (running unitB 1 0 1 0) (step (running unitB 1 0 1 0)) = some ([], 272, 1) := by
  decide +kernel
theorem test_step_emit : emitted (running unitB 1 0 1 1) (step (running unitB 1 0 1 1)) = some ([true], 273, 2) := by
  decide +kernel
theorem test_step_emit_extension :
    emitted (running unitB 1 0 1 5) (step (running unitB 1 0 1 5)) = some ([true, false], 468, 6) := by decide +kernel
/-- The first three codes of NAME1 are 0, 1 and 2 (R75). -/
theorem test_step_name :
    (emitted (running unitB 1 0 1 4) (step (running unitB 1 0 1 4))).map (fun r => (r.1.take 15, r.2)) =
      some ([false, false, false, false, false, false, false, false, false, true, false, false, false, true, false],
        466, 5) := by decide +kernel
theorem test_step_padto :
    emitted (running unitB 1 0 1 6) (step (running unitB 1 0 1 6)) = some (List.replicate 60 false, 528, 7) := by
  decide +kernel
theorem test_step_padto_none : emitted (running unitA 1 0 0 6) (step (running unitA 1 0 0 6)) = some ([], 196, 7) := by
  decide +kernel
theorem test_step_alfnsl :
    emitted (running unitB 1 0 1 9) (step (running unitB 1 0 1 9)) = some ([false, true], 532, 10) := by decide +kernel
/-- 0x955 is the checksum of zero bits (R82). -/
theorem test_step_crc :
    emitted (running unitB 1 0 1 10) (step (running unitB 1 0 1 10)) =
      some ([true, false, false, true, false, true, false, true, false, true, false, true], 544, 11) := by
  decide +kernel
theorem test_step_bend :
    (match step (running unitB 1 0 1 11) with
      | .next t => some (t.blk, t.upc, t.alfn, t.rsp)
      | .fault _ => none
      | .refused _ => none) = some (2, 0, 0xE4, none) := by decide +kernel
theorem test_step_bend_last :
    (match step (running unitB 1 0 3 11) with
      | .next t => some (t.phase, t.alfn, t.rsp)
      | .fault _ => none
      | .refused _ => none) = some (.idle, 0xE5, some 0x440) := by decide +kernel

/-- The checksum 0x658 of block 0 of program P1 (R80's example), over the record of R43. -/
theorem test_record_checksum :
    crc12 (Record.data Config.testInstanceA name1 0x2FAF0800 0) = 0x658 := by decide +kernel
theorem test_record_checksum_padded :
    crc12 (Record.data Config.testInstanceB name1 0xE4 3) = 0x3D8 := by decide +kernel

/-! ### Witnesses: for each statement with hypotheses, a state and operands that meet all of them -/

theorem witness_CommandDecodeInvertsEncode :
    (Instr.illegalNopArg 1).format = .command ∧ (Instr.illegalNopArg 1).encodable = true ∧
      (Instr.reservedCmd6to7 0x1FFFFFFFFFFFFFFF).format = .command ∧
      (Instr.reservedCmd6to7 0x1FFFFFFFFFFFFFFF).encodable = true := by decide
theorem witness_MicroDecodeInvertsEncode : (Instr.emit 63 0xFFFFFFFF).format = .micro := by decide
theorem witness_EveryCommandWordIsOneRow :
    (Instr.encode 3392).format = .command ∧ (Instr.encode 3392).encodable = true ∧
      encode (.encode 3392) = 0x1000000000000D40 := by decide
theorem witness_MicroWordsDecodeExactly :
    decodeMicro 0x3000000000000040 = .ok (.padto 64) ∧ ((Instr.padto 64).format = .micro ∧
      encode (.padto 64) = 0x3000000000000040) ∧ decodeMicro 1 = .error (.fixedFieldNotZero 1) := by decide
theorem witness_MicroWordsDecodeExactly_noRow : ∀ i : Instr, i.format = .micro → i.row.admits 1 = false := by
  intro i h
  cases i <;> first | (simp only [Instr.row]; decide) | exact absurd h (by simp [Instr.format])
theorem witness_AssemblerStatementsGiveWords : 2 ^ 60 ≤ 1152921504606846976 := by decide

/-- `ready` holds of an idle unit with a command on its port. -/
theorem witness_StepRunsTheCommand : ready (withCommand unitA 0x1000000000000D40) 0x1000000000000D40 := by
  exact ⟨rfl, rfl, rfl⟩
theorem witness_StepRunsTheMicroOp :
    (running unitA 1 0 0 0).phase = .run ∧ (running unitA 1 0 0 0).rst = none ∧ (running unitA 1 0 0 0).upc.toNat < 12 ∧
      (∃ h : (running unitA 1 0 0 11).upc.toNat < 12,
        decodeMicro (running unitA 1 0 0 11).rom[(running unitA 1 0 0 11).upc.toNat] = .ok .bend) :=
  ⟨rfl, rfl, by decide +kernel⟩
theorem witness_StepStopsOutsideTheRom :
    (running unitA 1 0 0 12).phase = .run ∧ (running unitA 1 0 0 12).rst = none ∧
      12 ≤ (running unitA 1 0 0 12).upc.toNat ∧ 12 ≤ (running unitA 1 0 0 15).upc.toNat :=
  ⟨rfl, rfl, by decide +kernel⟩
/-- A ROM word that no row admits, under UPC 0: the word 1, by `witness_MicroWordsDecodeExactly_noRow`. -/
theorem witness_StepStopsOutsideTheRom_word :
    let s := { running unitA 1 0 0 0 with rom := unitA.rom.set 0 1 }
    s.phase = .run ∧ s.rst = none ∧ ∃ h : s.upc.toNat < 12, s.rom[s.upc.toNat] = 1 :=
  ⟨rfl, rfl, by decide +kernel⟩

theorem witness_NopRespondsZero : (1 : BitVec 60) ≠ 0 := by decide
theorem witness_ReadAlfnRespondsCounter :
    (1 : BitVec 60) ≠ 0 ∧ 31 < unitA.cfg.wAlfn ∧ unitA.cfg.wAlfn ≤ 32 := by decide +kernel
theorem witness_ReadStatusRespondsStatus : (5 : BitVec 60) ≠ 0 ∧ unitA.status = 0 := by decide +kernel
theorem witness_ReadFrameBitsRespondsWidth : (1 : BitVec 60) ≠ 0 ∧ unitB.cfg.wellFormed = true := by decide +kernel
theorem witness_ReservedCommandsFault : 5 ≤ (5 : BitVec 4).toNat ∧ 5 ≤ (15 : BitVec 4).toNat := by decide
theorem witness_RaiseFaultRecordsFirstCode :
    faultFlag unitA.status = false ∧ faultFlag ({ unitA with status := 0x11 } : State).status = true := by
  decide +kernel
theorem witness_CommandsFaultByTable :
    (Instr.encode 3393).format = .command ∧ raises unitA.cfg (.encode 3393) = some 1 ∧
      (Instr.reservedCmd5 0).format = .command ∧ raises unitA.cfg (.reservedCmd5 0) = some 2 ∧
      raises unitA.cfg (.encode 3392) = none := by decide +kernel
theorem witness_EncodeBeginsRun :
    (3392 : BitVec 60).toNat % unitA.cfg.frameBits = 0 ∧ 0 < (3392 : BitVec 60).toNat / unitA.cfg.frameBits := by
  decide +kernel
theorem witness_EncodeOfNoFrameEndsOrFaults :
    (0 : BitVec 60) = 0 ∧ (3393 : BitVec 60).toNat % unitA.cfg.frameBits ≠ 0 ∧
      (0xFFFFFFFFFFFFFFF : BitVec 60).toNat % unitA.cfg.frameBits ≠ 0 := by decide +kernel

/-- The parts of `Inv`, and of `RunPosition` where a block has begun, as one decidable fact. -/
def invFacts (s : State) : Bool :=
  s.cfg.wellFormed && s.rom == s.cfg.microProgram && Memory.wf s.mem && s.status == 0 &&
  decide (s.alfn.toNat < 2 ^ s.cfg.wAlfn) && decide (s.bb.length ≤ s.cfg.blockBits) && decide (s.upc.toNat < 12) &&
  decide (s.blk.toNat < s.cfg.blocksPerFrame) && decide (s.pos.toNat ≤ s.nreq.toNat) &&
  decide (s.nreq.toNat % s.cfg.frameBits = 0) && decide (s.frm.toNat < framesOf s.cfg s.nreq.toNat) &&
  decide (s.pos.toNat = blockStart s + bitsBefore s.cfg s.upc.toNat) &&
  (s.upc == 0 || s.bb.length == bitsBefore s.cfg s.upc.toNat)

theorem inv_of_facts {s : State} (h : invFacts s = true) : Inv s := by
  simp only [invFacts, Bool.and_eq_true, Bool.or_eq_true, beq_iff_eq, decide_eq_true_eq] at h
  obtain ⟨⟨⟨⟨⟨⟨⟨⟨⟨⟨⟨⟨h1, h2⟩, h3⟩, h4⟩, h5⟩, h6⟩, h7⟩, h8⟩, h9⟩, h10⟩, h11⟩, h12⟩, h13⟩ := h
  exact ⟨h1, h2, h3, .inl h4, h5, h6, h7, h8, h9, fun _ => ⟨h10, h11, h12, fun hu => h13.resolve_left hu⟩⟩

/-- The unit ready for its first command: idle, so that no position has to hold. -/
theorem inv_constructed : Inv unitA := by
  have h : Inv { unitA with nreq := 3392, upc := 0 } := inv_of_facts (by decide +kernel)
  exact ⟨h.config, h.rom, h.memory, h.status, h.alfn, h.buffer, h.upc, h.blk, Nat.le_refl 0, fun h => nomatch h⟩
/-- The invariant of an idle unit with a command on its port. -/
theorem inv_idle (w : Word64) : Inv (withCommand unitA w) :=
  ⟨inv_constructed.config, inv_constructed.rom, inv_constructed.memory, inv_constructed.status, inv_constructed.alfn,
    inv_constructed.buffer, inv_constructed.upc, inv_constructed.blk, inv_constructed.cursor, fun h => nomatch h⟩
theorem inv_at_bstart : Inv (running unitA 1 0 0 0) := inv_of_facts (by decide +kernel)
/-- EMIT of UPC 1, in block 5 of the second frame of three. -/
theorem inv_at_emit : Inv (running unitA 3 1 5 1) := inv_of_facts (by decide +kernel)
theorem inv_at_padto : Inv (running unitB 1 0 3 6) := inv_of_facts (by decide +kernel)
theorem inv_at_crc : Inv (running unitA 1 0 15 10) := inv_of_facts (by decide +kernel)
/-- The last BEND of the last frame. -/
theorem inv_at_last_bend : Inv (running unitA 1 0 15 11) := inv_of_facts (by decide +kernel)

/-- The step goes on. -/
def goesOn : Host.Outcome State Fault Refusal → Bool
  | .next _ => true
  | .fault _ => false
  | .refused _ => false

theorem next_of_goesOn {o : Host.Outcome State Fault Refusal} (h : goesOn o = true) : ∃ t, o = .next t := by
  cases o with
  | next t => exact ⟨t, rfl⟩
  | fault _ => exact absurd h (by simp [goesOn])
  | refused _ => exact absurd h (by simp [goesOn])

theorem next_idle : ∃ t, step (withCommand unitA 0x1000000000000D40) = .next t := next_of_goesOn (by decide +kernel)
theorem next_at_bstart : ∃ t, step (running unitA 1 0 0 0) = .next t := next_of_goesOn (by decide +kernel)
theorem next_at_emit : ∃ t, step (running unitA 3 1 5 1) = .next t := next_of_goesOn (by decide +kernel)
theorem next_at_crc : ∃ t, step (running unitA 1 0 15 10) = .next t := next_of_goesOn (by decide +kernel)
theorem next_at_last_bend : ∃ t, step (running unitA 1 0 15 11) = .next t := next_of_goesOn (by decide +kernel)

theorem witness_EmitBitWritesOneUnit :
    (0x1000 : Nat) ≠ unitA.outBase + (running unitA 3 1 5 1).pos.toNat ∧ Inv (running unitA 3 1 5 1) ∧
      (running unitA 3 1 5 1).phase = .run ∧ ∃ t, step (running unitA 3 1 5 1) = .next t :=
  ⟨by decide +kernel, inv_at_emit, rfl, next_at_emit⟩
theorem witness_BstartEmptiesBuffer :
    Inv (running unitA 1 0 0 0) ∧ (running unitA 1 0 0 0).phase = .run ∧
      decodeMicro ((running unitA 1 0 0 0).rom[(running unitA 1 0 0 0).upc.toNat]?.getD 0xFFFFFFFFFFFFFFFF) =
        .ok .bstart := ⟨inv_at_bstart, rfl, by decide +kernel⟩
/-- At the bound: a cursor from which W units end at 2^60; and an EMIT of the ROM of a well-formed
configuration. -/
theorem witness_EmitSerialisesMsbFirst :
    (0xFFFFFFFFFFFFFFE : BitVec 60).toNat + (2 : BitVec 6).toNat ≤ 2 ^ 60 ∧
      Config.testInstanceA.wellFormed = true ∧
      Instr.emit 32 1 ∈ Config.testInstanceA.microStatements.toList := by decide +kernel
theorem witness_NameEmitsCodes : (running unitB 1 0 1 4).pos.toNat + 160 ≤ 2 ^ 60 := by decide +kernel
theorem witness_PadtoPadsToWidth :
    (running unitB 1 0 3 6).pos.toNat + ((256 : BitVec 32).toNat - (running unitB 1 0 3 6).bb.length) ≤ 2 ^ 60 ∧
      (running unitB 1 0 3 6).bb.length ≤ (256 : BitVec 32).toNat ∧
      (196 : BitVec 32).toNat ≤ (running unitB 1 0 3 6).bb.length ∧ Inv (running unitB 1 0 3 6) ∧
      (running unitB 1 0 3 6).phase = .run ∧ (running unitB 1 0 3 6).upc = 6 :=
  ⟨by decide +kernel, by decide +kernel, by decide +kernel, inv_at_padto, rfl, by decide +kernel⟩
/-- The two boundary blocks of a wide frame: block 16 of W_ALFN 32, and block 16 of W_ALFN 33. -/
theorem witness_AlfnslEmitsSlice :
    let s := unit { Config.testInstanceA with blocksPerFrame := 17 } 0xFFFFFFFF
    let u := unit { Config.testInstanceA with blocksPerFrame := 17, wAlfn := 33 } 0x1FFFFFFFF
    (running s 1 0 16 9).pos.toNat + 2 ≤ 2 ^ 60 ∧ s.cfg.wAlfn ≤ 2 * (running s 1 0 16 9).blk.toNat ∧
      (running u 1 0 16 9).pos.toNat + 2 ≤ 2 ^ 60 ∧ 2 * (running u 1 0 16 9).blk.toNat + 1 = u.cfg.wAlfn := by
  decide +kernel
theorem witness_CrcEmitsChecksum :
    (running unitA 1 0 15 10).pos.toNat + 12 ≤ 2 ^ 60 ∧ Inv (running unitA 1 0 15 10) ∧
      (running unitA 1 0 15 10).phase = .run ∧ (running unitA 1 0 15 10).upc = 10 :=
  ⟨by decide +kernel, inv_at_crc, rfl, by decide +kernel⟩
/-- A block that is not the last, the last block of a frame with another to come, and the last block of all. -/
theorem witness_BendEndsBlockOrFrame :
    (running unitA 2 0 0 11).blk.toNat ≠ unitA.cfg.blocksPerFrame - 1 ∧
      (running unitA 2 0 15 11).blk.toNat = unitA.cfg.blocksPerFrame - 1 ∧
      (running unitA 2 0 15 11).frm.toNat + 1 < (running unitA 2 0 15 11).nreq.toNat / unitA.cfg.frameBits ∧
      (running unitA 2 1 15 11).blk.toNat = unitA.cfg.blocksPerFrame - 1 ∧
      (running unitA 2 1 15 11).nreq.toNat / unitA.cfg.frameBits ≤ (running unitA 2 1 15 11).frm.toNat + 1 := by
  decide +kernel

theorem witness_CharMapFollowsTable :
    (0x41 ≤ (0x5A : Byte).toNat ∧ (0x5A : Byte).toNat ≤ 0x5A) ∧ (0x61 ≤ (0x61 : Byte).toNat ∧
      (0x61 : Byte).toNat ≤ 0x7A) ∧ Receiver.inAlphabet 0x40 = false ∧ Receiver.inAlphabet 0x5B = false ∧
      Receiver.inAlphabet 0x60 = false ∧ Receiver.inAlphabet 0x7B = false := by decide
theorem witness_ReceiverInvertsCharMap : (25 : BitVec 5).toNat ≤ 25 := by decide
theorem witness_CrcIdentities : [true, false].length = [false, true].length ∧ 0 < 1 ∧ 199 < 200 := by decide

theorem witness_PowerOnRefusesExactly :
    let c := Config.testInstanceB
    (c.pidsFormatted ≤ 1 ∧ c.noExtension ≤ 1 ∧ c.stationNameLong ≤ 2 ^ 32 - 1 ∧ c.extensionFm ≤ 3 ∧
      c.timeNotLocked ≤ 1 ∧ c.padMin ≤ 2 ^ 32 - 1 ∧ 1 ≤ c.blocksPerFrame ∧ c.blocksPerFrame ≤ 2 ^ 16 ∧
      32 ≤ c.wAlfn ∧ c.wAlfn ≤ 64 ∧ c.frameBits ≤ 2 ^ 60 - 1 ∧ c.microProgram = c.microProgram) ∧
      ¬({ c with wAlfn := 65 } : Config).wAlfn ≤ 64 ∧ c.microProgram.set 0 1 ≠ c.microProgram := by decide +kernel
theorem witness_RomHoldsMicroProgram : Config.testInstanceA.wellFormed = true := by decide
/-- The largest blocks-per-frame and the largest padding of R8 fit the frame-size check together. -/
theorem witness_RomHoldsMicroProgram_largest :
    ({ Config.testInstanceA with blocksPerFrame := 65536, padMin := 4294967295, wAlfn := 64 } : Config).wellFormed =
      true := by decide
theorem witness_ConstructionLoadsState :
    (presentReset unitA ⟨name1, 0xE4⟩).phase = .idle ∧ (presentReset unitA ⟨name1, 0xE4⟩).rst = some ⟨name1, 0xE4⟩ :=
  ⟨rfl, rfl⟩
theorem witness_ResetDuringEncodeIsRefused :
    (presentReset unitA ⟨name1, 0⟩).rst = some ⟨name1, 0⟩ ∧ (presentReset unitA ⟨name1, 0⟩).phase = .idle ∧
      (presentReset (running unitA 1 0 0 0) ⟨name1, 0⟩).rst = some ⟨name1, 0⟩ ∧
      (presentReset (running unitA 1 0 0 0) ⟨name1, 0⟩).phase = .run := ⟨rfl, rfl, rfl, rfl⟩
theorem witness_ConstructedStateMeetsInvariant :
    ∃ s, powerOn Config.testInstanceA Config.testInstanceA.microProgram ⟨name1, 800000000⟩ = .next s :=
  next_of_goesOn (by decide +kernel)

theorem witness_StepKeepsInvariant :
    (Inv (withCommand unitA 0x1000000000000D40) ∧ ∃ t, step (withCommand unitA 0x1000000000000D40) = .next t) ∧
      (Inv (running unitA 3 1 5 1) ∧ ∃ t, step (running unitA 3 1 5 1) = .next t) ∧
      Inv (running unitA 1 0 15 11) ∧ ∃ t, step (running unitA 1 0 15 11) = .next t :=
  ⟨⟨inv_idle _, next_idle⟩, ⟨inv_at_emit, next_at_emit⟩, inv_at_last_bend, next_at_last_bend⟩
theorem witness_StepFromInvariantNeverStops :
    Inv (running unitA 1 0 15 10) ∧ (running unitA 1 0 15 10).rst = none ∧ Inv (withCommand unitA 0) ∧
      (withCommand unitA 0).rst = none := ⟨inv_at_crc, rfl, inv_idle 0, rfl⟩
theorem witness_OnlyConstructionChangesName :
    (∃ t, step (running unitA 3 1 5 1) = .next t) ∧ (running unitA 3 1 5 1).rst = none := ⟨next_at_emit, rfl⟩
/-- ALFN changes in the last BEND of a frame, and both clauses apply to it. -/
theorem witness_AlfnChangesOnlyAtFrameEnd :
    let s := running unitA 1 0 15 11
    (∃ t, step s = .next t) ∧ s.rst = none ∧ s.phase = .run ∧ s.blk.toNat = s.cfg.blocksPerFrame - 1 ∧
      (∃ w, fetchMicro s = some w ∧ decodeMicro w = .ok .bend) ∧
      (match step s with
        | .next t => t.alfn != s.alfn
        | .fault _ => false
        | .refused _ => false) = true :=
  ⟨next_at_last_bend, rfl, rfl, by decide +kernel, ⟨0x6000000000000000, by decide +kernel, by decide +kernel⟩,
    by decide +kernel⟩
theorem witness_StatusKeepsFirstFault :
    let s := withCommand unitA 0x5000000000000000
    (∃ t, step s = .next t) ∧ s.rst = none ∧ faultFlag ({ s with status := 0x11 } : State).status = true ∧
      stepRaises s = some 2 ∧ stepRaises (withCommand unitA 0) = none ∧
      (match step s with
        | .next t => t.status != s.status
        | .fault _ => false
        | .refused _ => false) = true :=
  ⟨next_of_goesOn (by decide +kernel), rfl, by decide +kernel, by decide +kernel, by decide +kernel, by decide +kernel⟩
/-- Two runs of two commands: `encode 3393` then NOP, and NOP then READ_ALFN. -/
def runBad : List HostAction := [.command 0x1000000000000D41 0x1000, .command 0x0000000000000000 0]
def runGood : List HostAction := [.command 0x0000000000000000 0, .command 0x2000000000000000 0]
/-- R84's fourth point: the first is a failed run though its last command responds, the second is none. -/
theorem test_run_verdicts :
    runVerdict runBad unitA = .failed ∧ goesOn (runHost runBad unitA) = true ∧
      (match runVerdict runGood unitA with
        | .succeeded t => t.rsp == some 0x2FAF0800
        | .failed => false
        | .stopped => false) = true := by decide +kernel
theorem witness_StatusKeepsFirstFault_runs :
    faultFlag unitA.status = false ∧ unitA.rst = none ∧ (∀ p, HostAction.reset p ∉ runBad) ∧
      (∃ t, runHost runBad unitA = .next t) ∧ (∀ p, HostAction.reset p ∉ runGood) ∧
      ∃ t, runHost runGood unitA = .next t :=
  ⟨by decide +kernel, rfl, fun p => by simp [runBad], next_of_goesOn (by decide +kernel),
    fun p => by simp [runGood], next_of_goesOn (by decide +kernel)⟩
/-- EMIT at UPC 1 writes the unit at the cursor. -/
theorem witness_WritesStayAheadInRegion :
    let s := running unitA 3 1 5 1
    Inv s ∧ (∃ t, step s = .next t) ∧
      (match step s with
        | .next t => unitAt t (s.outBase + s.pos.toNat) != unitAt s (s.outBase + s.pos.toNat)
        | .fault _ => false
        | .refused _ => false) = true := ⟨inv_at_emit, next_at_emit, by decide +kernel⟩
theorem witness_WrittenUnitsAreBits :
    let s := running unitB 1 0 1 1
    (∃ t, step s = .next t) ∧
      (match step s with
        | .next t => unitAt t (s.outBase + s.pos.toNat) != unitAt s (s.outBase + s.pos.toNat)
        | .fault _ => false
        | .refused _ => false) = true := ⟨next_of_goesOn (by decide +kernel), by decide +kernel⟩
/-- EMIT at UPC 1 over an empty region, and over one whose unit at the cursor holds 7: after both steps it holds the
bit, and another unit is as before in each. -/
theorem witness_UnitNeverReadsRegion :
    let s := running unitB 1 0 1 1
    let m : Memory := [(0x1000, 9), (s.outBase + s.pos.toNat, 7)]
    (∃ t, step s = .next t) ∧ (∃ u, step { s with mem := m } = .next u) ∧
      (match step s, step { s with mem := m } with
        | .next t, .next u =>
          unitAt t (s.outBase + s.pos.toNat) == some 1 && unitAt u (s.outBase + s.pos.toNat) == some 1 &&
            unitAt t 0x1000 == none && unitAt u 0x1000 == some 9
        | _, _ => false) = true :=
  ⟨next_of_goesOn (by decide +kernel), next_of_goesOn (by decide +kernel), by decide +kernel⟩
/-- UPC 2, with the one bit of UPC 1 in the buffer and in the region. -/
theorem witness_BufferMirrorsRegion :
    let s := { running unitA 1 0 0 2 with mem := [(0x1000, 0)] }
    Inv s ∧ BufferMirrored s ∧ s.phase = .run ∧ s.upc ≠ 0 ∧ ∃ t, step s = .next t :=
  ⟨inv_of_facts (by decide +kernel),
    fun _ _ => by
      have h : ∀ j : Fin 1, unitAt { running unitA 1 0 0 2 with mem := [(0x1000, 0)] } (0x1000 + 0 + j.val) =
          some (unitOf (List.replicate 1 false)[j.val]) := by decide +kernel
      intro j hj
      exact h ⟨j, hj⟩,
    rfl, by decide +kernel, next_of_goesOn (by decide +kernel)⟩
theorem witness_CommandIsHeldWhileRunning :
    let s := withCommand (running unitA 3 1 5 1) 0x2000000000000000
    (∃ t, step s = .next t) ∧ s.phase = .run ∧
      (match step s with
        | .next t => t.phase == .run
        | .fault _ => false
        | .refused _ => false) = true ∧
      (∃ t, step (withCommand unitA 0x2000000000000000) = .next t) ∧
      (withCommand unitA 0x2000000000000000).phase = .idle ∧ (withCommand unitA 0x2000000000000000).rst = none :=
  ⟨next_of_goesOn (by decide +kernel), rfl, by decide +kernel, next_of_goesOn (by decide +kernel), rfl, rfl⟩
theorem witness_IdleKeepsState : unitA.phase = .idle ∧ unitA.rst = none ∧ unitA.cmd = none := ⟨rfl, rfl, rfl⟩

/-- The whole-command statements: an ENCODE of one frame of TI-A on the port of an idle unit. -/
theorem witness_EncodeRunsCountedMicroOps :
    Inv (withCommand unitA 0x1000000000000D40) ∧
      ready (withCommand unitA 0x1000000000000D40) (encode (.encode 3392)) ∧
      (3392 : BitVec 60).toNat % (withCommand unitA 0x1000000000000D40).cfg.frameBits = 0 ∧
      192 ≤ 12 * ((3392 : BitVec 60).toNat / (withCommand unitA 0x1000000000000D40).cfg.frameBits) *
        (withCommand unitA 0x1000000000000D40).cfg.blocksPerFrame :=
  ⟨inv_idle _, ⟨rfl, rfl, by decide +kernel⟩, by decide +kernel, by decide +kernel⟩
theorem witness_PassEmitsBlockRecord :
    Inv (running unitA 1 0 0 0) ∧ (running unitA 1 0 0 0).phase = .run ∧ (running unitA 1 0 0 0).rst = none ∧
      (running unitA 1 0 0 0).upc = 0 := ⟨inv_at_bstart, rfl, rfl, by decide +kernel⟩

/-- The end of the last block of program P5's first frame: buffer and region hold the block. -/
def endOfFrame : State :=
  let block := Record.block unitP5.cfg name1 3 0
  { running unitP5 1 0 0 11 with
    bb := block, mem := block.zipIdx.map fun x => (0x1000 + x.2, unitOf x.1) }

/-- What has been put out is the beginning of the record: at the first micro-op of a request, and at the last BEND
of one. -/
theorem witness_StepKeepsOutputSoFar :
    Inv (running unitA 1 0 0 0) ∧ (running unitA 1 0 0 0).phase = .run ∧
      OutputSoFar 800000000 (running unitA 1 0 0 0) ∧ ∃ t, step (running unitA 1 0 0 0) = .next t :=
  ⟨inv_at_bstart, rfl,
    ⟨by decide +kernel, fun h => absurd (by decide +kernel) h,
      fun i _ hi => absurd (show i < 0 from hi) (Nat.not_lt_zero i)⟩,
    next_at_bstart⟩
theorem witness_StepKeepsOutputSoFar_end_facts :
    invFacts endOfFrame = true ∧ (alfnValue endOfFrame).toNat = (3 + endOfFrame.frm.toNat) % 2 ^ endOfFrame.cfg.wAlfn ∧
      endOfFrame.bb = (Record.block endOfFrame.cfg endOfFrame.name (alfnValue endOfFrame).toNat
        endOfFrame.blk.toNat).take (bitsBefore endOfFrame.cfg endOfFrame.upc.toNat) ∧
      ((Record.output endOfFrame.cfg endOfFrame.name 3 (framesOf endOfFrame.cfg endOfFrame.nreq.toNat)).zipIdx.all
        fun x => unitAt endOfFrame (endOfFrame.outBase + x.2) == some (unitOf x.1)) = true := by decide +kernel
theorem holds_at {l : List Bool} {p : Bool × Nat → Bool} (h : l.zipIdx.all p = true) (i : Nat) (hi : i < l.length) :
    p (l[i], i) = true :=
  List.all_eq_true.mp h _ (List.mem_iff_getElem.mpr ⟨i, by simpa using hi, by simp⟩)
theorem witness_StepKeepsOutputSoFar_end :
    Inv endOfFrame ∧ endOfFrame.phase = .run ∧ OutputSoFar 3 endOfFrame ∧
      ∃ t, step endOfFrame = .next t ∧ t.phase = .idle := by
  obtain ⟨h1, h2, h3, h4⟩ := witness_StepKeepsOutputSoFar_end_facts
  refine ⟨inv_of_facts h1, rfl, ⟨h2, fun _ => h3, fun i h _ => ?_⟩, ?_⟩
  · exact beq_iff_eq.mp (holds_at h4 i h)
  · obtain ⟨t, ht⟩ : ∃ t, step endOfFrame = .next t := next_of_goesOn (by decide +kernel)
    have hp : (match step endOfFrame with
        | .next t => t.phase == .idle
        | .fault _ => false
        | .refused _ => false) = true := by decide +kernel
    rw [ht] at hp
    exact ⟨t, ht, by simpa using hp⟩

/-- Both clauses: a length that is no multiple, and one frame, and none. -/
theorem witness_EncodeProducesRecord :
    (Inv (withCommand unitA 0x1000000000000D41) ∧ ready (withCommand unitA 0x1000000000000D41) (0x1#4 ++ 3393#60) ∧
      (3393 : BitVec 60).toNat % (withCommand unitA 0x1000000000000D41).cfg.frameBits ≠ 0) ∧
    (Inv (withCommand unitA 0x1000000000000D40) ∧ ready (withCommand unitA 0x1000000000000D40) (0x1#4 ++ 3392#60) ∧
      (3392 : BitVec 60).toNat % (withCommand unitA 0x1000000000000D40).cfg.frameBits = 0) ∧
    Inv (withCommand unitA 0x1000000000000000) ∧ ready (withCommand unitA 0x1000000000000000) (0x1#4 ++ 0#60) ∧
      (0 : BitVec 60).toNat % (withCommand unitA 0x1000000000000000).cfg.frameBits = 0 :=
  ⟨⟨inv_idle _, ⟨rfl, rfl, by decide +kernel⟩, by decide +kernel⟩,
    ⟨inv_idle _, ⟨rfl, rfl, by decide +kernel⟩, by decide +kernel⟩, inv_idle _, ⟨rfl, rfl, by decide +kernel⟩,
    by decide +kernel⟩
theorem witness_EncodeComposes :
    Inv unitA ∧ unitA.phase = .idle ∧ unitA.rst = none ∧ 2 * unitA.cfg.frameBits < 2 ^ 60 :=
  ⟨inv_constructed, rfl, rfl, by decide +kernel⟩
/-- Two units with different bases, regions and STATUS that agree on NAME, ALFN and the configuration. -/
theorem witness_OutputDependsOnNameAlfnConfig :
    let s₁ := withCommand unitA 0x1000000000000D40
    let s₂ := { s₁ with cmdBase := 0x2000, status := 0x11, mem := [(0x2000, 7)] }
    Inv s₁ ∧ Inv s₂ ∧ ready s₁ (encode (.encode 3392)) ∧ ready s₂ (encode (.encode 3392)) ∧ s₁.cfg = s₂.cfg ∧
      s₁.name = s₂.name ∧ s₁.alfn = s₂.alfn ∧ (3392 : BitVec 60).toNat % s₁.cfg.frameBits = 0 :=
  ⟨inv_idle _,
    ⟨inv_constructed.config, inv_constructed.rom, by decide +kernel, .inr (.inl rfl), inv_constructed.alfn,
      inv_constructed.buffer, inv_constructed.upc, inv_constructed.blk, inv_constructed.cursor, fun h => nomatch h⟩,
    ⟨rfl, rfl, by decide +kernel⟩, ⟨rfl, rfl, by decide +kernel⟩, rfl, rfl, rfl, by decide +kernel⟩
theorem witness_EveryEmittedBlockVerifies :
    Inv (withCommand unitA 0x1000000000000D40) ∧
      ready (withCommand unitA 0x1000000000000D40) (encode (.encode 3392)) ∧
      (3392 : BitVec 60).toNat % (withCommand unitA 0x1000000000000D40).cfg.frameBits = 0 ∧
      0 < (3392 : BitVec 60).toNat / (withCommand unitA 0x1000000000000D40).cfg.frameBits ∧
      15 < (withCommand unitA 0x1000000000000D40).cfg.blocksPerFrame :=
  ⟨inv_idle _, ⟨rfl, rfl, by decide +kernel⟩, by decide +kernel, by decide +kernel, by decide +kernel⟩
theorem witness_SlicesReconstructAlfn : 0x2FAF0800 < 2 ^ 32 ∧ 32 ≤ 2 * 16 := by decide
theorem witness_OutputRecordFollowsTable :
    31 < 32 ∧ 11 < 12 ∧ 196 ≤ 255 ∧ 255 < Config.testInstanceB.payloadBits ∧ 0 < 1 ∧
      3 < Config.testInstanceB.blocksPerFrame ∧ 271 < Config.testInstanceB.blockBits := by decide

end Sys2Proof.Tests
end

section
/-! PROOFS of the family 00_scope.md: the derived sizes (R9), the configuration check (R10), and the invariant of
a unit that has just been constructed. -/

namespace Sys2Proof

open Machine

/-! ### The sizes and the configuration check -/

/-- The head of a block: 2 flags, 32 type bits, 32 five-bit characters and 2 extension bits (R9). -/
theorem headBits_eq : headBits = 196 := rfl

theorem Config.payloadBits_eq (c : Config) : c.payloadBits = max 196 c.padMin := by
  rw [Config.payloadBits, headBits_eq]

theorem Config.crcDataBits_eq (c : Config) : c.crcDataBits = c.payloadBits + 4 := rfl

theorem Config.blockBits_eq_crcDataBits_add (c : Config) : c.blockBits = c.crcDataBits + 12 := rfl

/-- A block past its payload: the reserved bit, the time bit, the two slice bits and the twelve checksum bits. -/
theorem Config.blockBits_eq (c : Config) : c.blockBits = c.payloadBits + 16 := by
  rw [Config.blockBits_eq_crcDataBits_add, Config.crcDataBits_eq]

theorem Config.frameBits_eq (c : Config) : c.frameBits = c.blocksPerFrame * c.blockBits := rfl

/-- The configuration check as the domains of R8 and the size check of R10, one proposition each. -/
theorem Config.wellFormed_iff (c : Config) :
    c.wellFormed = true ↔
      c.pidsFormatted ≤ 1 ∧ c.noExtension ≤ 1 ∧ c.stationNameLong ≤ 2 ^ 32 - 1 ∧ c.extensionFm ≤ 3 ∧
        c.timeNotLocked ≤ 1 ∧ c.padMin ≤ 2 ^ 32 - 1 ∧ 1 ≤ c.blocksPerFrame ∧ c.blocksPerFrame ≤ 2 ^ 16 ∧
        32 ≤ c.wAlfn ∧ c.wAlfn ≤ 64 ∧ c.frameBits ≤ 2 ^ 60 - 1 := by
  simp only [Config.wellFormed, Bool.and_eq_true, decide_eq_true_eq, and_assoc,
    Nat.lt_iff_le_pred (Nat.two_pow_pos 32)]

theorem Config.wellFormed.blocksPerFrame_pos {c : Config} (h : c.wellFormed = true) : 0 < c.blocksPerFrame := by
  obtain ⟨-, -, -, -, -, -, hpos, -⟩ := c.wellFormed_iff.1 h
  exact hpos

theorem Config.wellFormed.wAlfn_le {c : Config} (h : c.wellFormed = true) : c.wAlfn ≤ 64 := by
  obtain ⟨-, -, -, -, -, -, -, -, -, hle, -⟩ := c.wellFormed_iff.1 h
  exact hle

/-- A counter of at most 64 bits fits its word, so cutting a value to W_ALFN bits is exact. -/
theorem Config.alfnWord_toNat {c : Config} (h : c.wAlfn ≤ 64) (v : Nat) :
    (c.alfnWord v).toNat = v % 2 ^ c.wAlfn := by
  have hlt : v % 2 ^ c.wAlfn < 2 ^ 64 :=
    (Nat.mod_lt v (Nat.two_pow_pos _)).trans_le (Nat.pow_le_pow_right (by decide) h)
  rw [Config.alfnWord, BitVec.toNat_ofNat, Nat.mod_eq_of_lt hlt]

theorem Config.alfnWord_lt {c : Config} (h : c.wAlfn ≤ 64) (v : Nat) : (c.alfnWord v).toNat < 2 ^ c.wAlfn := by
  rw [Config.alfnWord_toNat h]
  exact Nat.mod_lt v (Nat.two_pow_pos _)

/-- The installed configuration passes the check: the open parameters where they do, TI-A where they do not. -/
theorem Config.installed_wellFormed : Config.installed.wellFormed = true := by
  unfold Config.installed
  split
  · assumption
  · decide

/-! ### Powering on -/

/-- Powering on answers a next state only where both checks pass, and then the constructed unit (R10, R60). -/
theorem powerOn_eq_next_iff {c : Config} {rom : Vector Word64 12} {p : RstInputs} {s : State} :
    powerOn c rom p = .next s ↔
      c.wellFormed = true ∧ rom = c.microProgram ∧ s = State.constructed c rom p := by
  obtain ⟨hwf, hrom, hp⟩ | ⟨hfail, hp⟩ := powerOn_cases c rom p
  · subst hrom
    simp only [hp, hwf, true_and, Host.Outcome.next.injEq]
    exact eq_comm
  · simp only [hp, reduceCtorEq, false_iff]
    exact fun ⟨hwf, hrom, _⟩ => hfail ⟨hwf, hrom⟩

/-- A unit constructed with a well-formed configuration and its ROM meets the invariant; it is idle, so no ENCODE
position has to hold. -/
theorem State.constructed_inv {c : Config} (hwf : c.wellFormed = true) (p : RstInputs) :
    Inv (State.constructed c c.microProgram p) where
  config := hwf
  rom := rfl
  memory := rfl
  status := .inl rfl
  alfn := Config.alfnWord_lt (Config.wellFormed.wAlfn_le hwf) p.alfnIn.toNat
  buffer := Nat.zero_le _
  upc := (by decide : (0 : BitVec 4).toNat < 12)
  blk := Config.wellFormed.blocksPerFrame_pos hwf
  cursor := Nat.le_refl _
  running := fun hrun => nomatch hrun

/-! ### The obligations -/

/-- Settles O33, size by size. -/
theorem derivedSizes : Obligations.DerivedSizes :=
  ⟨headBits_eq, fun c =>
    ⟨c.payloadBits_eq, c.crcDataBits_eq, c.blockBits_eq_crcDataBits_add, c.blockBits_eq, c.frameBits_eq⟩⟩

/-- Settles O34, by the two cases of powering on, with the configuration check spelt out. -/
theorem powerOnRefusesExactly : Obligations.PowerOnRefusesExactly := by
  intro c rom p
  obtain ⟨hwf, hrom, hp⟩ | ⟨hfail, hp⟩ := powerOn_cases c rom p
  · have hchecks := And.intro hwf hrom
    simp only [Config.wellFormed_iff, and_assoc] at hchecks
    exact ⟨fun _ => hp, fun h => absurd hchecks h⟩
  · simp only [Config.wellFormed_iff, and_assoc] at hfail
    exact ⟨fun h => absurd h hfail, fun _ => hp⟩

/-- Settles O39: a unit that powering on gives is a constructed one, and so is the unit after reset. -/
theorem constructedStateMeetsInvariant : Obligations.ConstructedStateMeetsInvariant := by
  refine ⟨fun c rom p s hon => ?_, State.constructed_inv Config.installed_wellFormed _⟩
  obtain ⟨hwf, rfl, rfl⟩ := powerOn_eq_next_iff.1 hon
  exact State.constructed_inv hwf p

end Sys2Proof
end

section
/-! PROOFS of the family 10_state.md, part 1: a micro-op's word decodes to it, so the ROM of a unit holds the
twelve statements of R60. -/

namespace Sys2Proof

open Machine

/-! ### The fields of a word that is put together from them -/

@[simp] theorem opField_append (op : BitVec 4) (arg : BitVec 60) : opField (op ++ arg) = op :=
  BitVec.extractLsb'_append_eq_left

@[simp] theorem argField_append (op : BitVec 4) (arg : BitVec 60) : argField (op ++ arg) = arg :=
  BitVec.extractLsb'_append_eq_right

section microWordFields
variable (op : BitVec 4) (w : BitVec 6) (r : BitVec 22) (imm : BitVec 32)

@[simp] theorem opField_microWord : opField (op ++ w ++ r ++ imm) = op :=
  calc opField (op ++ w ++ r ++ imm)
    _ = (op ++ w ++ r).extractLsb' 28 4 := BitVec.extractLsb'_append_eq_of_le (by decide)
    _ = (op ++ w).extractLsb' 6 4 := BitVec.extractLsb'_append_eq_of_le (by decide)
    _ = op := BitVec.extractLsb'_append_eq_left

@[simp] theorem widthField_microWord : widthField (op ++ w ++ r ++ imm) = w :=
  calc widthField (op ++ w ++ r ++ imm)
    _ = (op ++ w ++ r).extractLsb' 22 6 := BitVec.extractLsb'_append_eq_of_le (by decide)
    _ = (op ++ w).extractLsb' 0 6 := BitVec.extractLsb'_append_eq_of_le (by decide)
    _ = w := BitVec.extractLsb'_append_eq_right

@[simp] theorem reservedField_microWord : reservedField (op ++ w ++ r ++ imm) = r :=
  calc reservedField (op ++ w ++ r ++ imm)
    _ = (op ++ w ++ r).extractLsb' 0 22 := BitVec.extractLsb'_append_eq_of_le (by decide)
    _ = r := BitVec.extractLsb'_append_eq_right

@[simp] theorem immField_microWord : immField (op ++ w ++ r ++ imm) = imm :=
  BitVec.extractLsb'_append_eq_right

end microWordFields

/-- A word whose bit 63 is set has an opcode of 8 or more. -/
theorem opField_ge_eight (rest : BitVec 63) : 8 ≤ (opField (1#1 ++ rest)).toNat := by
  have htop : (opField (1#1 ++ rest)).msb = true := by
    rw [BitVec.msb_eq_getLsbD_last, opField, BitVec.getLsbD_extractLsb', BitVec.getLsbD_append]
    simp
  exact BitVec.le_toNat_of_msb_true htop

/-- A word is its opcode and its ARG (R45). -/
theorem op_append_arg (w : Word64) : opField w ++ argField w = w :=
  (BitVec.extractLsb'_append_extractLsb'_eq_extractLsb' (x := w) (start₁ := 0) (len₁ := 60) (len₂ := 4) rfl).trans
    BitVec.extractLsb'_eq_self

/-- A micro-op word is its opcode, W, the reserved bits and IMM (R48). -/
theorem op_append_fields (w : Word64) : opField w ++ widthField w ++ reservedField w ++ immField w = w := by
  have htop : opField w ++ widthField w = w.extractLsb' 54 10 :=
    BitVec.extractLsb'_append_extractLsb'_eq_extractLsb' rfl
  have hmid : w.extractLsb' 54 10 ++ reservedField w = w.extractLsb' 32 32 :=
    BitVec.extractLsb'_append_extractLsb'_eq_extractLsb' rfl
  have hall : w.extractLsb' 32 32 ++ immField w = w.extractLsb' 0 64 :=
    BitVec.extractLsb'_append_extractLsb'_eq_extractLsb' rfl
  rw [htop, hmid, hall, BitVec.extractLsb'_eq_self]

/-- A word whose opcode is 8 or more is bit 63 and the other 63 bits. -/
theorem one_append_rest {w : Word64} (h : 8 ≤ (opField w).toNat) : 1#1 ++ w.extractLsb' 0 63 = w := by
  have htop : 1#1 = w.extractLsb' 63 1 := by
    rw [opField, BitVec.extractLsb'_toNat, Nat.shiftRight_eq_div_pow] at h
    apply BitVec.eq_of_toNat_eq
    rw [BitVec.extractLsb'_toNat, Nat.shiftRight_eq_div_pow, BitVec.toNat_ofNat]
    omega
  have hall : w.extractLsb' 63 1 ++ w.extractLsb' 0 63 = w.extractLsb' 0 64 :=
    BitVec.extractLsb'_append_extractLsb'_eq_extractLsb' rfl
  rw [htop, hall, BitVec.extractLsb'_eq_self]

/-! ### The micro-op decoder -/

/-- Opcodes 8 to 15 are the one row of the reserved micro-ops whose first bit is 1 (R50). -/
theorem decodeMicro_of_eight_le {w : Word64} (h : 8 ≤ (opField w).toNat) :
    decodeMicro w = .ok (.reservedMicro8toF (w.extractLsb' 0 63)) := by
  unfold decodeMicro
  split
  case h_9 => rfl
  all_goals omega

/-- The decoder reads back every micro-op, whatever its fields. -/
theorem decodeMicro_encode {i : Instr} (h : i.format = .micro) : decodeMicro (encode i) = .ok i := by
  cases i with
  | bstart | name | alfnsl | crc | bend => rfl
  | emit w imm => simp [decodeMicro, encode]
  | padto imm => simp [decodeMicro, encode, -BitVec.reduceAppend]
  | reservedMicro7 rest => simp [decodeMicro, encode]
  | reservedMicro8toF rest =>
    rw [encode, decodeMicro_of_eight_le (opField_ge_eight rest)]
    exact congrArg (Except.ok ∘ Instr.reservedMicro8toF) BitVec.extractLsb'_append_eq_right
  | _ => simp [Instr.format] at h

/-- The word of a known opcode and no ARG. -/
theorem opcode_append_zero {w : Word64} (op : BitVec 4) (hop : (opField w).toNat = op.toNat) (harg : argField w = 0) :
    op ++ 0#60 = w := by
  have hword := op_append_arg w
  rwa [BitVec.eq_of_toNat_eq hop, harg] at hword

/-- A word decodes only to a micro-op, and only to the one whose word it is. -/
theorem encode_of_decodeMicro {w : Word64} {i : Instr} (h : decodeMicro w = .ok i) :
    i.format = .micro ∧ encode i = w := by
  unfold decodeMicro at h
  split at h
  case h_1 hop | h_3 hop | h_5 hop | h_6 hop | h_7 hop =>
    split at h <;> cases h
    case isTrue harg => exact ⟨rfl, opcode_append_zero _ hop harg⟩
  case h_2 hop =>
    split at h <;> cases h
    case isTrue hres =>
      refine ⟨rfl, Eq.trans ?_ (op_append_fields w)⟩
      rw [hres, BitVec.eq_of_toNat_eq (y := 0x1#4) hop]
      rfl
  case h_4 hop =>
    split at h <;> cases h
    case isTrue hfixed =>
      obtain ⟨hwidth, hres⟩ := hfixed
      refine ⟨rfl, Eq.trans ?_ (op_append_fields w)⟩
      rw [hwidth, hres, BitVec.eq_of_toNat_eq (y := 0x3#4) hop]
      rfl
  case h_8 hop =>
    cases h
    refine ⟨rfl, Eq.trans ?_ (op_append_arg w)⟩
    rw [BitVec.eq_of_toNat_eq (y := 0x7#4) hop]
    rfl
  case h_9 =>
    cases h
    exact ⟨rfl, one_append_rest (by grind)⟩

/-- Whatever the word, a command decoder's answer is a command. -/
theorem format_decodeCommand (w : Word64) : (decodeCommand w).format = .command := by
  unfold decodeCommand
  split
  case h_2 | h_6 | h_7 | h_8 | h_9 => rfl
  all_goals split <;> rfl

/-! ### The ROM -/

/-- The twelve statements of the micro-program are micro-ops. -/
theorem Config.microStatements_format (c : Config) :
    ∀ k (h : k < 12), c.microStatements[k].format = .micro
  | 0, _ | 1, _ | 2, _ | 3, _ | 4, _ | 5, _ | 6, _ | 7, _ | 8, _ | 9, _ | 10, _ | 11, _ => rfl

/-- Every word of the ROM decodes to its statement of R60. -/
theorem Config.decodeMicro_microProgram (c : Config) (k : Nat) (h : k < 12) :
    decodeMicro c.microProgram[k] = .ok c.microStatements[k] := by
  rw [Config.microProgram, Vector.getElem_map]
  exact decodeMicro_encode (c.microStatements_format k h)

end Sys2Proof
end

section
/-! PROOFS of the family 10_state.md, part 2: what an instruction and a step can do, said once. -/

namespace Sys2Proof.Machine

/-! ### One instruction -/

/-- A micro-op raises no fault (R86). -/
theorem raises_of_micro {i : Instr} (h : i.format = .micro) (c : Config) : raises c i = none := by
  cases i with
  | bstart | emit | name | padto | alfnsl | crc | bend | reservedMicro7 | reservedMicro8toF => rfl
  | _ => cases h

/-- R85 knows two fault codes. -/
theorem raises_eq_some {c : Config} {i : Instr} {code : BitVec 4} (h : raises c i = some code) :
    code = invalidRequestLength ∨ code = illegalCommand := by
  cases i with
  | encode n =>
    simp only [raises, Option.ite_none_left_eq_some, Option.some.injEq] at h
    obtain ⟨-, rfl⟩ := h
    exact .inl rfl
  | illegalNopArg | illegalReadAlfnArg | illegalReadStatusArg | illegalReadFrameBitsArg | reservedCmd5
  | reservedCmd6to7 | reservedCmd8toF => exact .inr (Option.some.inj h).symm
  | _ => cases h

/-- An instruction that raises a fault does what the fault does and nothing else (R87). -/
theorem exec_of_raises {i : Instr} {s : State} {code : BitVec 4} (h : raises s.cfg i = some code) :
    exec i s = .next (raiseFault s code) := by
  cases i with
  | encode n =>
    simp only [raises, Option.ite_none_left_eq_some, Option.some.injEq] at h
    obtain ⟨hmod, rfl⟩ := h
    exact if_pos hmod
  | illegalNopArg | illegalReadAlfnArg | illegalReadStatusArg | illegalReadFrameBitsArg | reservedCmd5
  | reservedCmd6to7 | reservedCmd8toF => cases h; rfl
  | _ => cases h

/-- What an instruction that goes on can do to the state. A micro-op that emits may replace the block buffer
(BSTART) or the checksum register (CRC) before it does. -/
inductive Effect (s : State) (i : Instr) : State → Prop
  | responds (v : Word64) (hcmd : i.format = .command) : Effect s i (respond s v)
  | faults (code : BitVec 4) (hraises : raises s.cfg i = some code) : Effect s i (raiseFault s code)
  | encodesNothing (hi : i = .encode 0) : Effect s i (finishEncode (beginEncode s 0))
  | encodes (n : BitVec 60) (hi : i = .encode n) (hwhole : n.toNat % s.cfg.frameBits = 0)
      (hsome : 0 < framesOf s.cfg n.toNat) : Effect s i (beginFrame { beginEncode s n with frm := 0 })
  | emits (buf : List Bool) (reg : BitVec 16) (xs : List Bool) (hmicro : i.format = .micro) :
      Effect s i (advance (emitBits { s with bb := buf, crc := reg } xs))
  | endsBlock (hi : i = .bend) (hblk : s.blk.toNat ≠ s.cfg.blocksPerFrame - 1) :
      Effect s i { s with blk := s.blk + 1, upc := 0 }
  | endsFrame (hi : i = .bend) (hblk : s.blk.toNat = s.cfg.blocksPerFrame - 1) :
      Effect s i (nextFrame { stepAlfn s with blk := 0 })

/-- BEND ends its block, or at the last block its frame. -/
theorem execBend_cases (s : State) :
    (s.blk.toNat ≠ s.cfg.blocksPerFrame - 1 ∧ execBend s = .next { s with blk := s.blk + 1, upc := 0 }) ∨
      (s.blk.toNat = s.cfg.blocksPerFrame - 1 ∧ execBend s = .next (nextFrame { stepAlfn s with blk := 0 })) := by
  unfold execBend
  by_cases h : s.blk.toNat = s.cfg.blocksPerFrame - 1
  · exact .inr ⟨h, if_pos h⟩
  · exact .inl ⟨h, if_neg h⟩

/-- An instruction that goes on has one of the effects. -/
theorem exec_effect {i : Instr} {s t : State} (h : exec i s = .next t) : Effect s i t := by
  cases i with
  | nop | readAlfn | readStatus | readFrameBits => cases h; exact .responds _ rfl
  | illegalNopArg | illegalReadAlfnArg | illegalReadStatusArg | illegalReadFrameBitsArg | reservedCmd5
  | reservedCmd6to7 | reservedCmd8toF => cases h; exact .faults _ rfl
  | encode n =>
    change execEncode n s = _ at h
    obtain ⟨hmod, he⟩ | ⟨rfl, he⟩ | ⟨hmod, hpos, he⟩ := execEncode_cases n s <;> rw [he] at h <;> cases h
    · exact .faults _ (if_neg hmod)
    · exact .encodesNothing rfl
    · exact .encodes n rfl hmod hpos
  | bstart => cases h; exact .emits [] s.crc [] rfl
  | emit | name | padto | alfnsl => cases h; exact .emits s.bb s.crc _ rfl
  | crc => cases h; exact .emits s.bb _ _ rfl
  | bend =>
    change execBend s = _ at h
    obtain ⟨hblk, he⟩ | ⟨hblk, he⟩ := execBend_cases s <;> rw [he] at h <;> cases h
    · exact .endsBlock rfl hblk
    · exact .endsFrame rfl hblk
  | reservedMicro7 | reservedMicro8toF => cases h

section nextFrameFields
variable (s : State)

@[simp] theorem nextFrame_cfg : (nextFrame s).cfg = s.cfg := by unfold nextFrame; split <;> rfl
@[simp] theorem nextFrame_rom : (nextFrame s).rom = s.rom := by unfold nextFrame; split <;> rfl
@[simp] theorem nextFrame_name : (nextFrame s).name = s.name := by unfold nextFrame; split <;> rfl
@[simp] theorem nextFrame_status : (nextFrame s).status = s.status := by unfold nextFrame; split <;> rfl
@[simp] theorem nextFrame_rst : (nextFrame s).rst = s.rst := by unfold nextFrame; split <;> rfl

end nextFrameFields

/-- No instruction changes the configuration, the ROM, NAME or the reset port. -/
theorem Effect.frame {i : Instr} {s t : State} (h : Effect s i t) :
    t.cfg = s.cfg ∧ t.rom = s.rom ∧ t.name = s.name ∧ t.rst = s.rst := by
  cases h <;> simp

/-- An instruction that raises no fault leaves STATUS. -/
theorem Effect.status_eq {i : Instr} {s t : State} (h : Effect s i t) (hraises : raises s.cfg i = none) :
    t.status = s.status := by
  cases h with
  | faults code hcode => simp [hraises] at hcode
  | _ => simp

/-! ### One step -/

theorem step_of_reset {s : State} {p : RstInputs} (hidle : s.phase = .idle) (hrst : s.rst = some p) :
    step s = .next (construct s p) := by
  simp only [step, hidle, hrst]

theorem step_of_run {s : State} (hrun : s.phase = .run) (hrst : s.rst = none) : step s = stepMicro s := by
  simp only [step, hrun, hrst]

theorem step_of_command {s : State} {w : Word64} (hidle : s.phase = .idle) (hrst : s.rst = none)
    (hcmd : s.cmd = some w) : step s = exec (decodeCommand w) (acceptCommand s) := by
  simp only [step, hidle, hrst, stepIdle, hcmd]

/-- What a step that goes on can do: construct, stay, run the command on the port, or run the micro-op ROM[UPC]. -/
theorem step_eq_next {s t : State} (h : step s = .next t) :
    (∃ p, s.phase = .idle ∧ s.rst = some p ∧ t = construct s p) ∨
      (s.phase = .idle ∧ s.rst = none ∧ s.cmd = none ∧ t = s) ∨
      (∃ w, s.phase = .idle ∧ s.rst = none ∧ s.cmd = some w ∧ Effect (acceptCommand s) (decodeCommand w) t) ∨
      (∃ w i, s.phase = .run ∧ s.rst = none ∧ fetchMicro s = some w ∧ decodeMicro w = .ok i ∧ Effect s i t) := by
  obtain ⟨p, hp, hr, hs⟩ | ⟨-, -, hs⟩ | ⟨hp, hr, hc, hs⟩ | ⟨w, hp, hr, hc, hs⟩ | ⟨hp, hr, hs⟩ := step_cases s <;>
    rw [hs] at h
  · cases h; exact .inl ⟨p, hp, hr, rfl⟩
  · cases h
  · cases h; exact .inr (.inl ⟨hp, hr, hc, rfl⟩)
  · exact .inr (.inr (.inl ⟨w, hp, hr, hc, exec_effect h⟩))
  · obtain ⟨-, hm⟩ | ⟨w, i, hf, hd, hm⟩ | ⟨w, e, -, -, hm⟩ := stepMicro_cases s <;> rw [hm] at h
    · cases h
    · exact .inr (.inr (.inr ⟨w, i, hp, hr, hf, hd, exec_effect h⟩))
    · cases h

/-- A step without a reset event keeps the configuration, the ROM, NAME and the reset port. -/
theorem step_frame {s t : State} (h : step s = .next t) (hrst : s.rst = none) :
    t.cfg = s.cfg ∧ t.rom = s.rom ∧ t.name = s.name ∧ t.rst = none := by
  obtain ⟨p, -, hr, -⟩ | ⟨-, hr, -, rfl⟩ | ⟨w, -, hr, -, he⟩ | ⟨w, i, -, hr, -, -, he⟩ := step_eq_next h
  · simp [hrst] at hr
  · exact ⟨rfl, rfl, rfl, hr⟩
  · simpa [hr] using he.frame
  · simpa [hr] using he.frame

/-- Settles O42: a construction keeps the ROM and the configuration, and every other step keeps NAME as well. -/
theorem onlyConstructionChangesName : Obligations.OnlyConstructionChangesName := by
  intro s t h
  cases hrst : s.rst with
  | none =>
    obtain ⟨hcfg, hrom, hname, -⟩ := step_frame h hrst
    exact ⟨hrom, hcfg, fun _ => hname⟩
  | some p =>
    obtain ⟨q, -, -, rfl⟩ | ⟨-, hr, -⟩ | ⟨w, -, hr, -⟩ | ⟨w, i, -, hr, -⟩ := step_eq_next h
    · exact ⟨rfl, rfl, fun hnone => nomatch hnone⟩
    all_goals simp [hrst] at hr

/-! ### STATUS -/

/-- A fault sets FAULT, whatever came before. -/
@[simp] theorem faultFlag_recordFault (status : Word64) (code : BitVec 4) :
    faultFlag (recordFault status code) = true := by
  obtain ⟨hset, heq⟩ | ⟨-, heq⟩ := recordFault_cases status code <;> rw [heq]
  · exact hset
  · rw [faultFlag, BitVec.getLsbD_append]
    rfl

/-- A fault of R85 leaves STATUS or makes it one of the two legal values with FAULT set. -/
theorem recordFault_eq (status : Word64) {code : BitVec 4}
    (hcode : code = invalidRequestLength ∨ code = illegalCommand) :
    recordFault status code = status ∨ recordFault status code = 0x11 ∨ recordFault status code = 0x21 := by
  obtain ⟨-, heq⟩ | ⟨-, heq⟩ := recordFault_cases status code <;> rw [heq]
  · exact .inl rfl
  · obtain rfl | rfl := hcode
    · exact .inr (.inl (by decide))
    · exact .inr (.inr (by decide))

/-- A step that accepts a command that faults does what the fault does, and takes the command off its port. -/
theorem step_of_stepRaises {s : State} {code : BitVec 4} (h : stepRaises s = some code) :
    step s = .next { s with cmd := none, status := recordFault s.status code, rsp := some 0 } := by
  obtain ⟨w, hp, hr, hc, hraises⟩ := (stepRaises_eq_some s code).1 h
  rw [step_of_command hp hr hc, exec_of_raises (by simpa using hraises)]
  simp [raiseFault, respond, acceptCommand, ← hp]

/-- A step without a reset event that accepts no faulting command leaves STATUS. -/
theorem status_of_stepRaises_none {s t : State} (h : step s = .next t) (hrst : s.rst = none)
    (hnone : stepRaises s = none) : t.status = s.status := by
  obtain ⟨p, -, hr, -⟩ | ⟨-, -, -, rfl⟩ | ⟨w, hp, hr, hc, he⟩ | ⟨w, i, -, -, -, hd, he⟩ := step_eq_next h
  · simp [hrst] at hr
  · rfl
  · simpa using he.status_eq (by simpa [stepRaises, hp, hr, hc] using hnone)
  · obtain ⟨hmicro, -⟩ := encode_of_decodeMicro hd
    exact he.status_eq (raises_of_micro hmicro _)

/-- After a step without a reset event FAULT is set exactly if it was, or if the step accepts a faulting command. -/
theorem faultFlag_step {s t : State} (h : step s = .next t) (hrst : s.rst = none) :
    faultFlag t.status = (faultFlag s.status || (stepRaises s).isSome) := by
  cases hraises : stepRaises s with
  | none => simp [status_of_stepRaises_none h hrst hraises]
  | some code =>
    rw [step_of_stepRaises hraises] at h
    cases h
    simp

/-- What one step without a reset event does to STATUS (R19, R84, R90). -/
theorem step_status {s t : State} (h : step s = .next t) (hrst : s.rst = none) :
    (faultFlag s.status = true → t.status = s.status) ∧
      (t.status ≠ s.status → s.phase = .idle ∧ (t.status = 0x11 ∨ t.status = 0x21) ∧ t.rsp = some 0) ∧
      (∀ code, stepRaises s = some code →
        t = { s with cmd := none, status := recordFault s.status code, rsp := some 0 }) ∧
      (stepRaises s = none → t.status = s.status) := by
  cases hraises : stepRaises s with
  | none =>
    have heq := status_of_stepRaises_none h hrst hraises
    exact ⟨fun _ => heq, fun hne => absurd heq hne, fun code hcode => (nomatch hcode), fun _ => heq⟩
  | some code =>
    obtain ⟨w, hidle, -, -, hw⟩ := (stepRaises_eq_some s code).1 hraises
    rw [step_of_stepRaises hraises] at h
    cases h
    refine ⟨fun hset => if_pos hset, fun hne => ⟨hidle, ?_, rfl⟩, fun _ hcode => ?_, fun hnone => nomatch hnone⟩
    · exact (recordFault_eq s.status (raises_eq_some hw)).resolve_left hne
    · cases hcode; rfl

/-- A run without a reset event from an idle reset port ends with FAULT set exactly if it began so, or if some
command of it faults. -/
theorem faultFlag_runHost {as : List HostAction} {s t : State} (hrst : s.rst = none)
    (has : ∀ p, HostAction.reset p ∉ as) (h : runHost as s = .next t) :
    faultFlag t.status = (faultFlag s.status || runRaises as s) := by
  induction as generalizing s with
  | nil => cases h; simp [runRaises]
  | cons a as ih =>
    obtain ⟨v, hv, hrun, hraises⟩ := runHost_cons h
    have hport : (a.apply s).rst = none := by
      obtain ⟨p, rfl⟩ | hsame := a.apply_rst s
      · exact absurd List.mem_cons_self (has p)
      · exact hsame.trans hrst
    obtain ⟨-, -, -, hvrst⟩ := step_frame hv hport
    have htail := ih hvrst (fun p hp => has p (List.mem_cons_of_mem _ hp)) hrun
    rw [htail, faultFlag_step hv hport, hraises, HostAction.apply_status, Bool.or_assoc]

/-- A run that ends in a next state has failed if a command of it faults, and has succeeded otherwise. -/
theorem runVerdict_of_next {as : List HostAction} {s t : State} (h : runHost as s = .next t) :
    runVerdict as s = if runRaises as s then .failed else .succeeded t := by
  simp only [runVerdict, h]

/-- Settles O44: the steps by `step_status`, the runs by induction over the host's actions. -/
theorem statusKeepsFirstFault : Obligations.StatusKeepsFirstFault := by
  refine ⟨fun s t h hrst => step_status h hrst, fun as s t hclear hrst has h => ?_⟩
  rw [faultFlag_runHost hrst has h, hclear, runVerdict_of_next h]
  cases runRaises as s <;> simp

/-! ### The register CRC -/

/-- The state with another value in the register CRC. -/
def withCrc (s : State) (r : BitVec 16) : State := { s with crc := r }

/-- Emitting neither reads nor writes the register CRC. -/
theorem emitBits_withCrc (xs : List Bool) (r : BitVec 16) :
    ∀ s : State, emitBits (withCrc s r) xs = withCrc (emitBits s xs) r := by
  induction xs with
  | nil => intro s; rfl
  | cons x xs ih => intro s; exact ih (emitBit s x)

/-- Nor does the frame loop of ENCODE. -/
theorem nextFrame_withCrc (s : State) (r : BitVec 16) : nextFrame (withCrc s r) = withCrc (nextFrame s) r := by
  obtain ⟨hlt, he⟩ | ⟨hle, he⟩ := nextFrame_cases s <;> rw [he]
  · exact if_pos hlt
  · exact if_neg (Nat.not_lt.2 hle)

/-- The outcomes O48 calls the same: they are so but for the register CRC. -/
def SameButCrc (o o' : Host.Outcome State Fault Refusal) : Prop := sameOutcome (withCrc · 0) o o'

theorem SameButCrc.refl (o : Host.Outcome State Fault Refusal) : SameButCrc o o := by
  cases o <;> rfl

theorem SameButCrc.next (s : State) (r : BitVec 16) : SameButCrc (.next s) (.next (withCrc s r)) := rfl

/-- Micro-ops that emit the same bits from two states that differ in the register CRC end in such states. -/
theorem SameButCrc.emits (s : State) (r : BitVec 16) (xs : List Bool) :
    SameButCrc (.next (advance (emitBits s xs))) (.next (advance (emitBits (withCrc s r) xs))) := by
  rw [emitBits_withCrc]
  exact .next (advance (emitBits s xs)) r

/-- No instruction observes the register CRC. -/
theorem exec_withCrc (i : Instr) (s : State) (r : BitVec 16) : SameButCrc (exec i s) (exec i (withCrc s r)) := by
  cases i with
  | encode n =>
    have hcfg : (withCrc s r).cfg = s.cfg := rfl
    simp only [exec, execEncode, hcfg]
    split
    · rfl
    · split <;> rfl
  | emit | name | padto | alfnsl => exact .emits s r _
  | crc => exact .refl _
  | bend =>
    obtain ⟨hblk, he⟩ | ⟨hblk, he⟩ := execBend_cases s
    · have he' : execBend (withCrc s r) = .next _ := if_neg hblk
      rw [exec, exec, he, he']
      rfl
    · have he' : execBend (withCrc s r) = .next (nextFrame (withCrc { stepAlfn s with blk := 0 } r)) := if_pos hblk
      rw [exec, exec, he, he', nextFrame_withCrc]
      exact .next _ r
  | _ => rfl

theorem stepMicro_withCrc (s : State) (r : BitVec 16) : SameButCrc (stepMicro s) (stepMicro (withCrc s r)) := by
  have hfetch : fetchMicro (withCrc s r) = fetchMicro s := rfl
  simp only [stepMicro, hfetch]
  cases fetchMicro s with
  | none => exact .refl _
  | some w =>
    cases hd : decodeMicro w with
    | ok i => simpa only [hd] using exec_withCrc i s r
    | error e => simpa only [hd] using .refl _

theorem stepIdle_withCrc (s : State) (r : BitVec 16) : SameButCrc (stepIdle s) (stepIdle (withCrc s r)) := by
  have hport : (withCrc s r).cmd = s.cmd := rfl
  simp only [stepIdle, hport]
  cases s.cmd with
  | none => exact .next s r
  | some w => exact exec_withCrc (decodeCommand w) (acceptCommand s) r

/-- A step has the same outcome but for the register CRC, by PHASE and the reset port. -/
theorem step_withCrc (s : State) (r : BitVec 16) : SameButCrc (step s) (step (withCrc s r)) := by
  have hphase : (withCrc s r).phase = s.phase := rfl
  have hport : (withCrc s r).rst = s.rst := rfl
  simp only [step, hphase, hport]
  cases s.phase <;> cases s.rst
  · exact stepIdle_withCrc s r
  · exact .refl _
  · exact stepMicro_withCrc s r
  · exact .refl _

/-- Settles O48. -/
theorem crcRegisterIsNotObserved : Obligations.CrcRegisterIsNotObserved :=
  fun s r => ⟨step_withCrc s r, rfl⟩

end Sys2Proof.Machine
end

section
/-! PROOFS of the family 10_state.md, part 3: where a running unit stops, and the values after construction. -/

namespace Sys2Proof.Laws

/-- Every instruction's word matches its row, instruction by instruction. -/
theorem rowMatch : ∀ i : Instr, RowMatch.Statement i
  | .nop => RowMatch.nop
  | .encode n => RowMatch.encode n
  | .readAlfn => RowMatch.readAlfn
  | .readStatus => RowMatch.readStatus
  | .readFrameBits => RowMatch.readFrameBits
  | .illegalNopArg arg => RowMatch.illegalNopArg arg
  | .illegalReadAlfnArg arg => RowMatch.illegalReadAlfnArg arg
  | .illegalReadStatusArg arg => RowMatch.illegalReadStatusArg arg
  | .illegalReadFrameBitsArg arg => RowMatch.illegalReadFrameBitsArg arg
  | .reservedCmd5 arg => RowMatch.reservedCmd5 arg
  | .reservedCmd6to7 rest => RowMatch.reservedCmd6to7 rest
  | .reservedCmd8toF rest => RowMatch.reservedCmd8toF rest
  | .bstart => RowMatch.bstart
  | .emit w imm => RowMatch.emit w imm
  | .name => RowMatch.name
  | .padto imm => RowMatch.padto imm
  | .alfnsl => RowMatch.alfnsl
  | .crc => RowMatch.crc
  | .bend => RowMatch.bend
  | .reservedMicro7 rest => RowMatch.reservedMicro7 rest
  | .reservedMicro8toF rest => RowMatch.reservedMicro8toF rest

end Sys2Proof.Laws

namespace Sys2Proof.Machine

/-! ### The obligations -/

/-- A word that no row admits decodes to nothing: a word that decodes is its micro-op's, which its row admits. -/
theorem decodeMicro_of_no_row {w : Word64} (h : ∀ i : Instr, i.format = .micro → i.row.admits w = false) :
    ∃ e, decodeMicro w = .error e := by
  cases hd : decodeMicro w with
  | error e => exact ⟨e, rfl⟩
  | ok i =>
    obtain ⟨hmicro, rfl⟩ := encode_of_decodeMicro hd
    exact absurd (Laws.rowMatch i) (by simp [Laws.RowMatch.Statement, h i hmicro])

/-- Settles O9: the fetch finds no word, or a word that does not decode. -/
theorem stepStopsOutsideTheRom : Obligations.StepStopsOutsideTheRom := by
  intro s hrun hrst
  rw [step_of_run hrun hrst]
  constructor
  · intro hupc
    have hfetch : fetchMicro s = none := Vector.getElem?_eq_none hupc
    simp only [stepMicro, hfetch]
  · intro hupc hrow
    obtain ⟨e, he⟩ := decodeMicro_of_no_row hrow
    simp only [stepMicro, fetchMicro_of_lt s hupc, he]

/-- Settles O36: the step is the construction. -/
theorem constructionLoadsState : Obligations.ConstructionLoadsState := fun s p hidle hrst =>
  ⟨construct s p, step_of_reset hidle hrst, construct_name s p, construct_alfn s p, construct_status s p, rfl,
    construct_phase s p, construct_upc s p, construct_blk s p, construct_frm s p, construct_pos s p, construct_nreq s p,
    construct_crc s p, construct_bb s p, construct_mem s p, construct_cfg s p, construct_rom s p⟩

/-- Settles O37: the installed configuration passes the checks of powering on, and the constructed unit has the
values of R27 by its definition. -/
theorem resetStateIsConstructed : Obligations.ResetStateIsConstructed := by
  have hwf := Config.installed_wellFormed
  exact ⟨powerOn_eq_next_iff.2 ⟨hwf, rfl, rfl⟩, rfl, Config.alfnWord_toNat (Config.wellFormed.wAlfn_le hwf) _, rfl, rfl,
    rfl, rfl, rfl, rfl, rfl, rfl, rfl, fun _ => rfl, rfl, rfl, rfl⟩

end Sys2Proof.Machine
end

section
/-! PROOFS of the family 10_state.md, part 4: the block record of R43 cut into the fields that the micro-ops emit,
and the place of a block's bit in the output of R44. -/

namespace Sys2Proof

open Machine

/-! ### The ranges of R8 -/

theorem Config.wellFormed.padMin_lt {c : Config} (h : c.wellFormed = true) : c.padMin < 2 ^ 32 := by
  obtain ⟨-, -, -, -, -, hpad, -⟩ := c.wellFormed_iff.1 h
  omega

theorem Config.wellFormed.blocksPerFrame_le {c : Config} (h : c.wellFormed = true) : c.blocksPerFrame ≤ 2 ^ 16 := by
  obtain ⟨-, -, -, -, -, -, -, hle, -⟩ := c.wellFormed_iff.1 h
  exact hle

/-! ### The fields of a block -/

/-- The bits the micro-op at UPC `k` emits for block `b` (R60, R68), given the block buffer before it. -/
def blockField (c : Config) (name : Vector Byte 32) (alfn b : Nat) (buf : List Bool) : Nat → List Bool
  | 1 => fieldBits c.pidsFormatted wFlag
  | 2 => fieldBits c.noExtension wFlag
  | 3 => fieldBits c.stationNameLong wType
  | 4 => nameBits name
  | 5 => fieldBits c.extensionFm wExt
  | 6 => List.replicate (c.payloadBits - headBits) padBit
  | 7 => fieldBits reservedBit wFlag
  | 8 => fieldBits c.timeNotLocked wFlag
  | 9 => [alfn.testBit (2 * b + 1), alfn.testBit (2 * b)]
  | 10 => fieldBits (crc12 buf).toNat wCrc
  | _ => []

/-- The fields of the micro-ops before UPC `k`, one after the other. -/
def Record.upTo (c : Config) (name : Vector Byte 32) (alfn b : Nat) : Nat → List Bool
  | 0 => []
  | k + 1 => Record.upTo c name alfn b k ++ blockField c name alfn b (Record.upTo c name alfn b k) k

theorem headBits_le_payloadBits (c : Config) : headBits ≤ c.payloadBits := Nat.le_max_left _ _

/-- The field of a micro-op has the length by which `bitsBefore` grows there. -/
theorem bitsBefore_succ (c : Config) (name : Vector Byte 32) (alfn b : Nat) (buf : List Bool) :
    ∀ k, bitsBefore c (k + 1) = bitsBefore c k + (blockField c name alfn b buf k).length
  | 0 | 1 | 2 | 3 | 5 | 7 | 8 | 9 | 10 => by
    simp [bitsBefore, blockField, wFlag, wType, wExt, wCrc, headBits, nChars, wChar, Config.crcDataBits,
      Config.blockBits]
  | 4 => by simp [bitsBefore, blockField]
  | 6 => by
    have hle := headBits_le_payloadBits c
    simp only [bitsBefore, blockField, List.length_replicate]
    omega
  | k + 11 => rfl

theorem bitsBefore_mono (c : Config) : Monotone (bitsBefore c) :=
  monotone_nat_of_le_succ fun k => by
    rw [bitsBefore_succ c (Vector.replicate 32 0) 0 0 [] k]
    exact Nat.le_add_right _ _

/-- No micro-op is reached with more bits than a block has. -/
theorem bitsBefore_le (c : Config) (k : Nat) : bitsBefore c k ≤ c.blockBits :=
  bitsBefore_mono c (Nat.le_add_right k 11)

section record
variable (c : Config) (name : Vector Byte 32) (alfn b : Nat)

@[simp] theorem Record.upTo_length (k : Nat) : (Record.upTo c name alfn b k).length = bitsBefore c k := by
  induction k with
  | zero => rfl
  | succ k ih => rw [Record.upTo, List.length_append, ih, ← bitsBefore_succ]

/-- The fields up to the checksum are the bits the checksum covers. -/
theorem Record.upTo_crc : Record.upTo c name alfn b 10 = Record.data c name alfn b := by
  simp [Record.upTo, blockField, Record.data, Record.head]

/-- All fields together are the block of R43. -/
theorem Record.upTo_bend : Record.upTo c name alfn b 11 = Record.block c name alfn b := by
  rw [Record.upTo, Record.upTo_crc, blockField, Record.block]

theorem Record.upTo_prefix {k m : Nat} (h : k ≤ m) : Record.upTo c name alfn b k <+: Record.upTo c name alfn b m := by
  induction h with
  | refl => exact List.prefix_rfl
  | step _ ih => exact ih.trans (List.prefix_append _ _)

/-- The beginning of a block is the fields of the micro-ops executed so far. -/
theorem Record.block_take {k : Nat} (h : k ≤ 11) :
    (Record.block c name alfn b).take (bitsBefore c k) = Record.upTo c name alfn b k := by
  rw [← Record.upTo_bend, ← Record.upTo_length c name alfn b k]
  exact (List.prefix_iff_eq_take.1 (Record.upTo_prefix c name alfn b h)).symm

@[simp] theorem Record.block_length : (Record.block c name alfn b).length = c.blockBits := by
  rw [← Record.upTo_bend, Record.upTo_length]
  rfl

/-! ### Blocks and frames end to end (R44) -/

theorem length_flatMap_range {α : Type} {f : Nat → List α} {len : Nat} (hlen : ∀ i, (f i).length = len) (n : Nat) :
    ((List.range n).flatMap f).length = n * len := by
  simp [List.length_flatMap, hlen]

/-- In a row of lists of one length, entry `j` of the `i`-th list is at `i * len + j`. -/
theorem getElem?_flatMap_range {α : Type} {f : Nat → List α} {len : Nat} (hlen : ∀ i, (f i).length = len)
    {n i j : Nat} (hi : i < n) (hj : j < len) : ((List.range n).flatMap f)[i * len + j]? = (f i)[j]? := by
  induction n with
  | zero => omega
  | succ n ih =>
    rw [List.range_succ, List.flatMap_append, List.flatMap_singleton]
    by_cases hin : i < n
    · have hlt : i * len + j < n * len :=
        calc i * len + j < (i + 1) * len := by rw [Nat.succ_mul]; omega
          _ ≤ n * len := Nat.mul_le_mul_right len hin
      rw [List.getElem?_append_left (by rwa [length_flatMap_range hlen]), ih hin]
    · obtain rfl : i = n := by omega
      rw [List.getElem?_append_right (by rw [length_flatMap_range hlen]; omega), length_flatMap_range hlen,
        Nat.add_sub_cancel_left]

@[simp] theorem Record.frame_length : (Record.frame c name alfn).length = c.frameBits :=
  length_flatMap_range (Record.block_length c name alfn) c.blocksPerFrame

@[simp] theorem Record.output_length (k : Nat) : (Record.output c name alfn k).length = k * c.frameBits :=
  length_flatMap_range (fun _ => Record.frame_length c name _) k

/-- Bit `j` of block `b` of frame `f` in the output of a request (R44). -/
theorem Record.output_getElem? {k f j : Nat} (hf : f < k) (hb : b < c.blocksPerFrame) (hj : j < c.blockBits) :
    (Record.output c name alfn k)[(f * c.blocksPerFrame + b) * c.blockBits + j]? =
      (Record.block c name ((alfn + f) % 2 ^ c.wAlfn) b)[j]? := by
  have hoffset : b * c.blockBits + j < c.frameBits :=
    calc b * c.blockBits + j < (b + 1) * c.blockBits := by rw [Nat.succ_mul]; omega
      _ ≤ c.frameBits := Nat.mul_le_mul_right _ hb
  have hindex : (f * c.blocksPerFrame + b) * c.blockBits + j = f * c.frameBits + (b * c.blockBits + j) := by
    rw [Config.frameBits_eq]; ring
  rw [hindex, Record.output, getElem?_flatMap_range (fun _ => Record.frame_length c name _) hf hoffset, Record.frame,
    getElem?_flatMap_range (Record.block_length c name _) hb hj]

end record

end Sys2Proof
end

section
/-! PROOFS of the family 10_state.md, part 5: the micro-ops of the ROM emit the fields of the record, and every step
keeps the invariant. -/

namespace Sys2Proof.Machine

/-! ### What a micro-op of the ROM does -/

/-- The state in which the micro-op at UPC `k` emits: BSTART has emptied the buffer, CRC has run the register. -/
def beforeEmit (s : State) (k : Nat) : State :=
  { s with bb := if k = 0 then [] else s.bb, crc := if k = 10 then crcRegister s.bb else s.crc }

/-- The state after the micro-op at UPC `k`, for the eleven that emit. -/
def afterEmit (s : State) (k : Nat) : State :=
  advance (emitBits (beforeEmit s k) (blockField s.cfg s.name (alfnValue s).toNat s.blk.toNat s.bb k))

/-- A field serialises the low bits of its value, so cutting the value to as many bits or more is no loss. -/
theorem fieldBits_mod (v : Nat) {w m : Nat} (h : w ≤ m) : fieldBits (v % 2 ^ m) w = fieldBits v w := by
  induction w with
  | zero => rfl
  | succ w ih =>
    rw [fieldBits, fieldBits, ih (Nat.le_of_succ_le h), Nat.testBit_mod_two_pow, decide_eq_true (Nat.lt_of_succ_le h),
      Bool.true_and]

/-- An EMIT of a constant that is formed from a parameter emits the parameter's field. -/
theorem exec_emit_ofNat (s : State) (w : BitVec 6) (v : Nat) (h : w.toNat ≤ 32) :
    exec (.emit w (BitVec.ofNat 32 v)) s = .next (advance (emitBits s (fieldBits v w.toNat))) := by
  rw [← fieldBits_mod v h]
  rfl

/-- PADTO after the head of a block emits the record's padding. -/
theorem exec_padto_padMin (s : State) (hpad : s.cfg.padMin < 2 ^ 32) (hlen : s.bb.length = headBits) :
    exec (.padto (BitVec.ofNat 32 s.cfg.padMin)) s =
      .next (advance (emitBits s (List.replicate (s.cfg.payloadBits - headBits) padBit))) := by
  have hsub : s.cfg.padMin - headBits = s.cfg.payloadBits - headBits := by rw [Config.payloadBits]; omega
  simp only [exec, execPadto, paddingBits, hlen, BitVec.toNat_ofNat, Nat.mod_eq_of_lt hpad, hsub]

/-- The two bits of the slice of block `b` (R63). -/
theorem fieldBits_alfnSlice (alfn b : Nat) :
    fieldBits (alfnSlice alfn b) 2 = [alfn.testBit (2 * b + 1), alfn.testBit (2 * b)] := by
  have hmask : alfnSlice alfn b = (alfn >>> (2 * b)) % 2 ^ 2 := Nat.and_two_pow_sub_one_eq_mod _ 2
  rw [hmask, fieldBits_mod _ le_rfl]
  simp [fieldBits, Nat.testBit_shiftRight]

theorem exec_alfnsl (s : State) :
    exec .alfnsl s = .next (advance (emitBits s
      [(alfnValue s).toNat.testBit (2 * s.blk.toNat + 1), (alfnValue s).toNat.testBit (2 * s.blk.toNat)])) := by
  rw [← fieldBits_alfnSlice]
  rfl

/-- The micro-op at UPC `k` emits the field of the record that is due there. -/
theorem exec_microStatement (s : State) (hpad : s.cfg.padMin < 2 ^ 32) :
    ∀ k (h : k < 11), (k ≠ 0 → s.bb.length = bitsBefore s.cfg k) →
      exec s.cfg.microStatements[k] s = .next (afterEmit s k)
  | 0, _, _ | 4, _, _ | 10, _, _ => rfl
  | 1, _, _ => exec_emit_ofNat s 1 s.cfg.pidsFormatted (by decide)
  | 2, _, _ => exec_emit_ofNat s 1 s.cfg.noExtension (by decide)
  | 3, _, _ => exec_emit_ofNat s 32 s.cfg.stationNameLong (by decide)
  | 5, _, _ => exec_emit_ofNat s 2 s.cfg.extensionFm (by decide)
  | 6, _, hlen => exec_padto_padMin s hpad (hlen (by decide))
  | 7, _, _ => exec_emit_ofNat s 1 reservedBit (by decide)
  | 8, _, _ => exec_emit_ofNat s 1 s.cfg.timeNotLocked (by decide)
  | 9, _, _ => exec_alfnsl s

section afterEmitFields
variable (s : State) (k : Nat)

@[simp] theorem afterEmit_cfg : (afterEmit s k).cfg = s.cfg := by simp [afterEmit, beforeEmit]
@[simp] theorem afterEmit_rom : (afterEmit s k).rom = s.rom := by simp [afterEmit, beforeEmit]
@[simp] theorem afterEmit_name : (afterEmit s k).name = s.name := by simp [afterEmit, beforeEmit]
@[simp] theorem afterEmit_alfn : (afterEmit s k).alfn = s.alfn := by simp [afterEmit, beforeEmit]
@[simp] theorem afterEmit_status : (afterEmit s k).status = s.status := by simp [afterEmit, beforeEmit]
@[simp] theorem afterEmit_upc : (afterEmit s k).upc = s.upc + 1 := by simp [afterEmit, beforeEmit]
@[simp] theorem afterEmit_blk : (afterEmit s k).blk = s.blk := by simp [afterEmit, beforeEmit]
@[simp] theorem afterEmit_frm : (afterEmit s k).frm = s.frm := by simp [afterEmit, beforeEmit]
@[simp] theorem afterEmit_nreq : (afterEmit s k).nreq = s.nreq := by simp [afterEmit, beforeEmit]
@[simp] theorem afterEmit_outBase : (afterEmit s k).outBase = s.outBase := by simp [afterEmit, beforeEmit]
@[simp] theorem afterEmit_phase : (afterEmit s k).phase = s.phase := by simp [afterEmit, beforeEmit]
@[simp] theorem afterEmit_alfnValue : alfnValue (afterEmit s k) = alfnValue s := by simp [alfnValue]
@[simp] theorem afterEmit_blockStart : blockStart (afterEmit s k) = blockStart s := by simp [blockStart]

@[simp] theorem afterEmit_bb : (afterEmit s k).bb =
    (if k = 0 then [] else s.bb) ++ blockField s.cfg s.name (alfnValue s).toNat s.blk.toNat s.bb k := by
  simp [afterEmit, beforeEmit]

theorem afterEmit_pos : (afterEmit s k).pos = s.pos +
    BitVec.ofNat 60 (blockField s.cfg s.name (alfnValue s).toNat s.blk.toNat s.bb k).length := by
  simp [afterEmit, beforeEmit]

theorem afterEmit_mem_wf (h : Memory.wf s.mem = true) : Memory.wf (afterEmit s k).mem = true :=
  emitBits_mem_wf _ (beforeEmit s k) h

end afterEmitFields

/-! ### A running unit that meets the invariant -/

/-- The next value of a counter that does not wrap. -/
theorem toNat_succ {n : Nat} {x : BitVec n} (h : x.toNat + 1 < 2 ^ n) : (x + 1).toNat = x.toNat + 1 := by
  have hone : (1 : BitVec n).toNat = 1 := (BitVec.toNat_ofNat 1 n).trans (Nat.mod_eq_of_lt (by omega))
  rw [BitVec.toNat_add, hone, Nat.mod_eq_of_lt h]

section
variable {s : State}

/-- A running step executes the statement of R60 at UPC. -/
theorem Inv.step_micro (hinv : Inv s) (hrun : s.phase = .run) (hrst : s.rst = none) :
    step s = exec (s.cfg.microStatements[s.upc.toNat]'hinv.upc) s := by
  have hrom : s.rom[s.upc.toNat]'hinv.upc = s.cfg.microProgram[s.upc.toNat]'hinv.upc := by rw [hinv.rom]
  simp only [step_of_run hrun hrst, stepMicro, fetchMicro_of_lt s hinv.upc, hrom,
    s.cfg.decodeMicro_microProgram _ hinv.upc]

/-- Before BEND a running step emits the field of the record due at UPC. -/
theorem Inv.step_emits (hinv : Inv s) (hrun : s.phase = .run) (hrst : s.rst = none) (hupc : s.upc.toNat < 11) :
    step s = .next (afterEmit s s.upc.toNat) := by
  rw [hinv.step_micro hrun hrst]
  refine exec_microStatement s (Config.wellFormed.padMin_lt hinv.config) _ hupc fun hne => ?_
  exact (hinv.running hrun).buffer fun h0 => hne (by rw [h0]; rfl)

/-- At UPC 11 a running step is BEND. -/
theorem Inv.step_bend (hinv : Inv s) (hrun : s.phase = .run) (hrst : s.rst = none) (hupc : s.upc.toNat = 11) :
    step s = execBend s := by
  rw [hinv.step_micro hrun hrst]
  simp only [hupc]
  rfl

/-- A request of whole frames has K * FRAME_BITS units. -/
theorem RunPosition.nreq_eq (hpos : RunPosition s) :
    s.nreq.toNat = framesOf s.cfg s.nreq.toNat * s.cfg.frameBits :=
  (Nat.div_mul_cancel (Nat.dvd_of_mod_eq_zero hpos.whole)).symm

/-- The current block ends within the request. -/
theorem Inv.blockEnd_le (hinv : Inv s) (hpos : RunPosition s) : blockStart s + s.cfg.blockBits ≤ s.nreq.toNat := by
  have hblocks : s.frm.toNat * s.cfg.blocksPerFrame + s.blk.toNat + 1 ≤
      framesOf s.cfg s.nreq.toNat * s.cfg.blocksPerFrame :=
    calc s.frm.toNat * s.cfg.blocksPerFrame + s.blk.toNat + 1
      _ ≤ (s.frm.toNat + 1) * s.cfg.blocksPerFrame := by rw [Nat.succ_mul]; have := hinv.blk; omega
      _ ≤ framesOf s.cfg s.nreq.toNat * s.cfg.blocksPerFrame := Nat.mul_le_mul_right _ hpos.frame
  calc blockStart s + s.cfg.blockBits
    _ = (s.frm.toNat * s.cfg.blocksPerFrame + s.blk.toNat + 1) * s.cfg.blockBits := by rw [Nat.succ_mul, blockStart]
    _ ≤ framesOf s.cfg s.nreq.toNat * s.cfg.blocksPerFrame * s.cfg.blockBits := Nat.mul_le_mul_right _ hblocks
    _ = s.nreq.toNat := by rw [Nat.mul_assoc, ← Config.frameBits_eq, ← hpos.nreq_eq]

/-- FRM cannot wrap while a frame is left: K is at most the request length. -/
theorem framesOf_lt (c : Config) (n : BitVec 60) : framesOf c n.toNat < 2 ^ 60 :=
  (Nat.div_le_self _ _).trans_lt n.isLt

/-- Emitting moves the cursor past the field, without a wrap. -/
theorem Inv.afterEmit_pos_toNat (hinv : Inv s) (hpos : RunPosition s) :
    (afterEmit s s.upc.toNat).pos.toNat = blockStart s + bitsBefore s.cfg (s.upc.toNat + 1) := by
  have hend := hinv.blockEnd_le hpos
  have hle := bitsBefore_le s.cfg (s.upc.toNat + 1)
  have hlt := s.nreq.isLt
  rw [bitsBefore_succ s.cfg s.name (alfnValue s).toNat s.blk.toNat s.bb] at hle ⊢
  rw [afterEmit_pos, BitVec.toNat_add, BitVec.toNat_ofNat, hpos.cursor, Nat.add_mod_mod, Nat.mod_eq_of_lt (by omega)]
  omega

/-- Emitting makes the block buffer as long as the micro-ops so far have made the block. -/
theorem RunPosition.afterEmit_bb_length (hpos : RunPosition s) :
    (afterEmit s s.upc.toNat).bb.length = bitsBefore s.cfg (s.upc.toNat + 1) := by
  rw [bitsBefore_succ s.cfg s.name (alfnValue s).toNat s.blk.toNat s.bb, afterEmit_bb, List.length_append]
  congr 1
  split
  case isTrue h0 => rw [h0]; rfl
  case isFalse hne => exact hpos.buffer fun h0 => hne (by rw [h0]; rfl)

/-! ### The steps of a running ENCODE keep the invariant -/

/-- An emitting micro-op keeps the invariant. -/
theorem inv_afterEmit (hinv : Inv s) (hrun : s.phase = .run) (hupc : s.upc.toNat < 11) :
    Inv (afterEmit s s.upc.toNat) := by
  have hpos := hinv.running hrun
  have hcursor := hinv.afterEmit_pos_toNat hpos
  have hle := bitsBefore_le s.cfg (s.upc.toNat + 1)
  have hnext : (s.upc + 1).toNat = s.upc.toNat + 1 := toNat_succ (by omega)
  exact {
    config := by simpa using hinv.config
    rom := by simpa using hinv.rom
    memory := afterEmit_mem_wf s _ hinv.memory
    status := by simpa using hinv.status
    alfn := by simpa using hinv.alfn
    buffer := by simpa only [hpos.afterEmit_bb_length, afterEmit_cfg] using hle
    upc := by rw [afterEmit_upc, hnext]; omega
    blk := by simpa using hinv.blk
    cursor := by have := hinv.blockEnd_le hpos; rw [afterEmit_nreq]; omega
    running := fun _ => {
      whole := by simpa using hpos.whole
      frame := by simpa using hpos.frame
      cursor := by rw [afterEmit_upc, hnext, afterEmit_blockStart, afterEmit_cfg, hcursor]
      buffer := fun _ => by rw [afterEmit_upc, hnext, afterEmit_cfg, hpos.afterEmit_bb_length] } }

/-- At BEND the cursor stands at the end of the block. -/
theorem RunPosition.pos_at_bend (hpos : RunPosition s) (hupc : s.upc.toNat = 11) :
    s.pos.toNat = blockStart s + s.cfg.blockBits := by
  rw [hpos.cursor, hupc]
  rfl

/-- BEND of a block that is not the last of its frame keeps the invariant. -/
theorem inv_endsBlock (hinv : Inv s) (hrun : s.phase = .run) (hupc : s.upc.toNat = 11)
    (hblk : s.blk.toNat ≠ s.cfg.blocksPerFrame - 1) : Inv { s with blk := s.blk + 1, upc := 0 } := by
  have hpos := hinv.running hrun
  have hlt := hinv.blk
  have hle := Config.wellFormed.blocksPerFrame_le hinv.config
  have hnext : (s.blk + 1).toNat = s.blk.toNat + 1 := toNat_succ (by omega)
  exact { hinv with
    upc := (by decide : (0 : BitVec 4).toNat < 12)
    blk := by simp only [hnext]; omega
    running := fun _ => { hpos with
      cursor := by
        simp only [hpos.pos_at_bend hupc, blockStart, hnext, ← Nat.add_assoc, Nat.succ_mul]
        rfl
      buffer := fun hne => absurd rfl hne } }

/-- At the last BEND of a frame the cursor stands at the end of the frame. -/
theorem Inv.pos_at_frameEnd (hinv : Inv s) (hpos : RunPosition s) (hupc : s.upc.toNat = 11)
    (hblk : s.blk.toNat = s.cfg.blocksPerFrame - 1) : s.pos.toNat = (s.frm.toNat + 1) * s.cfg.frameBits := by
  have hlast : s.blk.toNat + 1 = s.cfg.blocksPerFrame := by have := hinv.blk; omega
  calc s.pos.toNat
    _ = (s.frm.toNat * s.cfg.blocksPerFrame + (s.blk.toNat + 1)) * s.cfg.blockBits := by
      rw [hpos.pos_at_bend hupc, blockStart]; ring
    _ = (s.frm.toNat + 1) * s.cfg.frameBits := by rw [hlast, Config.frameBits_eq]; ring

/-- BEND of the last block of a frame keeps the invariant, whether a frame follows or the ENCODE ends. -/
theorem inv_endsFrame (hinv : Inv s) (hrun : s.phase = .run) (hupc : s.upc.toNat = 11)
    (hblk : s.blk.toNat = s.cfg.blocksPerFrame - 1) : Inv (nextFrame { stepAlfn s with blk := 0 }) := by
  have hpos := hinv.running hrun
  have halfn := Config.alfnWord_lt (Config.wellFormed.wAlfn_le hinv.config) (s.alfn.toNat + 1)
  have hzero : (0 : BitVec 17).toNat < s.cfg.blocksPerFrame := Config.wellFormed.blocksPerFrame_pos hinv.config
  obtain ⟨hmore, he⟩ | ⟨-, he⟩ := nextFrame_cases { stepAlfn s with blk := 0 } <;> rw [he]
  · have hnext : (s.frm + 1).toNat = s.frm.toNat + 1 := toNat_succ (hmore.trans (framesOf_lt s.cfg s.nreq))
    exact { hinv with
      alfn := halfn
      upc := (by decide : (0 : BitVec 4).toNat < 12)
      blk := hzero
      running := fun _ => {
        whole := hpos.whole
        frame := by simpa only [stepAlfn_frm, hnext] using hmore
        cursor := by
          simp only [stepAlfn_pos, hinv.pos_at_frameEnd hpos hupc hblk, blockStart, stepAlfn_frm, hnext, stepAlfn_cfg,
            Config.frameBits_eq, ← Nat.mul_assoc]
          rfl
        buffer := fun hne => absurd rfl hne } }
  · exact { hinv with
      alfn := halfn
      blk := hzero
      running := fun h => nomatch h }

/-! ### Commands keep the invariant -/

/-- STATUS stays legal when a fault of R85 is recorded. -/
theorem legalStatus_recordFault {status : Word64} (h : legalStatus status) {code : BitVec 4}
    (hcode : code = invalidRequestLength ∨ code = illegalCommand) : legalStatus (recordFault status code) := by
  obtain hsame | hfault := recordFault_eq status hcode
  · rwa [hsame]
  · exact .inr hfault

/-- A command keeps the invariant of an idle unit. -/
theorem inv_command (hinv : Inv s) (hidle : s.phase = .idle) {i : Instr} (hcmd : i.format = .command) {t : State}
    (he : Effect s i t) : Inv t := by
  have hnotRunning {P : Prop} (hrun : s.phase = .run) : P := by simp [hidle] at hrun
  cases he with
  | responds v => exact { hinv with running := hnotRunning }
  | faults code hraises =>
    exact { hinv with
      status := legalStatus_recordFault hinv.status (raises_eq_some hraises)
      running := fun h => nomatch h }
  | encodesNothing hi => exact { hinv with cursor := Nat.zero_le _, running := fun h => nomatch h }
  | encodes n hi hwhole hsome =>
    exact { hinv with
      upc := (by decide : (0 : BitVec 4).toNat < 12)
      blk := Config.wellFormed.blocksPerFrame_pos hinv.config
      cursor := Nat.zero_le _
      running := fun _ => {
        whole := hwhole
        frame := hsome
        cursor := by simp [blockStart, bitsBefore]
        buffer := fun hne => absurd rfl hne } }
  | emits buf reg xs hmicro => simp [hcmd] at hmicro
  | endsBlock hi | endsFrame hi => simp [hi, Instr.format] at hcmd

/-! ### Every step -/

/-- Construction gives a unit that meets the invariant, whatever the state before it was. -/
theorem inv_construct (hinv : Inv s) (p : RstInputs) : Inv (construct s p) :=
  { hinv with
    status := .inl rfl
    alfn := Config.alfnWord_lt (Config.wellFormed.wAlfn_le hinv.config) p.alfnIn.toNat
    buffer := Nat.zero_le _
    upc := (by decide : (0 : BitVec 4).toNat < 12)
    blk := Config.wellFormed.blocksPerFrame_pos hinv.config
    cursor := Nat.le_refl _
    running := fun h => nomatch h }

/-- What a step of a running ENCODE does, under the invariant: it emits, ends its block, or ends its frame. -/
theorem Inv.step_running_cases (hinv : Inv s) (hrun : s.phase = .run) {t : State} (h : step s = .next t) :
    (s.upc.toNat < 11 ∧ t = afterEmit s s.upc.toNat) ∨
      (s.upc.toNat = 11 ∧ s.blk.toNat ≠ s.cfg.blocksPerFrame - 1 ∧ t = { s with blk := s.blk + 1, upc := 0 }) ∨
      (s.upc.toNat = 11 ∧ s.blk.toNat = s.cfg.blocksPerFrame - 1 ∧ t = nextFrame { stepAlfn s with blk := 0 }) := by
  have hrst : s.rst = none := by
    obtain ⟨p, hp, -⟩ | ⟨hp, -⟩ | ⟨w, hp, -⟩ | ⟨w, i, -, hr, -⟩ := step_eq_next h
    case inr.inr.inr => exact hr
    all_goals simp [hrun] at hp
  have hupc := hinv.upc
  by_cases hlt : s.upc.toNat < 11
  · rw [hinv.step_emits hrun hrst hlt] at h
    cases h
    exact .inl ⟨hlt, rfl⟩
  · have hbend : s.upc.toNat = 11 := by omega
    rw [hinv.step_bend hrun hrst hbend] at h
    obtain ⟨hblk, he⟩ | ⟨hblk, he⟩ := execBend_cases s <;> rw [he] at h <;> cases h
    · exact .inr (.inl ⟨hbend, hblk, rfl⟩)
    · exact .inr (.inr ⟨hbend, hblk, rfl⟩)

end

/-- Settles O40: by the cases of a step, and for a running ENCODE by its micro-op. -/
theorem stepKeepsInvariant : Obligations.StepKeepsInvariant := by
  intro s t hinv h
  obtain ⟨p, -, -, rfl⟩ | ⟨-, -, -, rfl⟩ | ⟨w, hidle, -, -, he⟩ | ⟨w, i, hrun, -⟩ := step_eq_next h
  · exact inv_construct hinv p
  · exact hinv
  · have haccept : Inv (acceptCommand s) := { hinv with running := fun hrun => by simp [hidle] at hrun }
    exact inv_command haccept hidle (format_decodeCommand w) he
  · obtain ⟨hupc, rfl⟩ | ⟨hupc, hblk, rfl⟩ | ⟨hupc, hblk, rfl⟩ := hinv.step_running_cases hrun h
    · exact inv_afterEmit hinv hrun hupc
    · exact inv_endsBlock hinv hrun hupc hblk
    · exact inv_endsFrame hinv hrun hupc hblk

end Sys2Proof.Machine
end

section
/-! PROOFS of the family 10_state.md, part 6: what a running ENCODE has put out is the beginning of its record. -/

namespace Sys2Proof.Machine

section
variable {s : State} {alfn0 : Nat}

/-! ### The counter value -/

theorem Inv.alfnValue_toNat (hinv : Inv s) : (alfnValue s).toNat = s.alfn.toNat := by
  rw [alfnValue, Config.alfnWord_toNat (Config.wellFormed.wAlfn_le hinv.config), Nat.mod_eq_of_lt hinv.alfn]

/-- The end of a frame counts ALFN on from the value of the frame that ends to that of the next (R65). -/
theorem OutputSoFar.alfnValue_stepAlfn (hinv : Inv s) (hout : OutputSoFar alfn0 s) :
    (alfnValue (stepAlfn s)).toNat = (alfn0 + (s.frm.toNat + 1)) % 2 ^ s.cfg.wAlfn := by
  have hvalue : (alfnValue (stepAlfn s)).toNat = (s.alfn.toNat + 1) % 2 ^ s.cfg.wAlfn := by
    simp only [alfnValue, stepAlfn_cfg, stepAlfn_alfn, Config.alfnWord_toNat (Config.wellFormed.wAlfn_le hinv.config),
      Nat.mod_mod]
  rw [hvalue, ← hinv.alfnValue_toNat, hout.alfn, Nat.mod_add_mod, Nat.add_assoc]

/-! ### The micro-ops that emit -/

/-- The block buffer after an emitting micro-op is the record's fields up to and with the one just emitted. -/
theorem OutputSoFar.bb_afterEmit (hout : OutputSoFar alfn0 s) (hupc : s.upc.toNat < 11) :
    (afterEmit s s.upc.toNat).bb =
      Record.upTo s.cfg s.name (alfnValue s).toNat s.blk.toNat (s.upc.toNat + 1) := by
  rw [afterEmit_bb, Record.upTo]
  by_cases h0 : s.upc.toNat = 0
  · rw [if_pos h0, h0]
    rfl
  · have hbuf := hout.buffer fun hz => h0 (by rw [hz]; rfl)
    rw [Record.block_take _ _ _ _ hupc.le] at hbuf
    rw [if_neg h0, ← hbuf]

/-- The bit of the record at the place of an emitted bit is that bit. -/
theorem OutputSoFar.output_at_emitted (hinv : Inv s) (hpos : RunPosition s) (hout : OutputSoFar alfn0 s)
    (hupc : s.upc.toNat < 11) {j : Nat}
    (hj : j < (blockField s.cfg s.name (alfnValue s).toNat s.blk.toNat s.bb s.upc.toNat).length) :
    (Record.output s.cfg s.name alfn0 (framesOf s.cfg s.nreq.toNat))[s.pos.toNat + j]? =
      some (blockField s.cfg s.name (alfnValue s).toNat s.blk.toNat s.bb s.upc.toNat)[j] := by
  have hgrow := bitsBefore_succ s.cfg s.name (alfnValue s).toNat s.blk.toNat s.bb s.upc.toNat
  have hle := bitsBefore_le s.cfg (s.upc.toNat + 1)
  have hnextUpc : s.upc.toNat + 1 ≤ 11 := hupc
  have hbb := hout.bb_afterEmit hupc
  have hlen := hpos.afterEmit_bb_length
  have hplace : s.pos.toNat + j = blockStart s + (bitsBefore s.cfg s.upc.toNat + j) := by
    rw [hpos.cursor, Nat.add_assoc]
  calc (Record.output s.cfg s.name alfn0 (framesOf s.cfg s.nreq.toNat))[s.pos.toNat + j]?
    _ = (Record.block s.cfg s.name (alfnValue s).toNat s.blk.toNat)[bitsBefore s.cfg s.upc.toNat + j]? := by
      rw [hplace, hout.alfn]
      exact Record.output_getElem? s.cfg s.name alfn0 s.blk.toNat hpos.frame hinv.blk (by omega)
    _ = (afterEmit s s.upc.toNat).bb[bitsBefore s.cfg s.upc.toNat + j]? := by
      rw [hbb, ← Record.block_take _ _ _ _ hnextUpc, List.getElem?_take_of_lt (by omega)]
    _ = some (blockField s.cfg s.name (alfnValue s).toNat s.blk.toNat s.bb s.upc.toNat)[j] := by
      rw [afterEmit_bb, List.length_append] at hlen
      rw [afterEmit_bb, List.getElem?_append_right (by omega), List.getElem?_eq_getElem (by omega)]
      congr 2
      omega

/-- An emitting micro-op writes the next units of the record. -/
theorem outputSoFar_afterEmit (hinv : Inv s) (hpos : RunPosition s) (hout : OutputSoFar alfn0 s)
    (hupc : s.upc.toNat < 11) : OutputSoFar alfn0 (afterEmit s s.upc.toNat) where
  alfn := by simpa using hout.alfn
  buffer := fun _ => by
    have hnextUpc : s.upc.toNat + 1 ≤ 11 := hupc
    have hnext : (s.upc + 1).toNat = s.upc.toNat + 1 := toNat_succ (by omega)
    rw [hout.bb_afterEmit hupc, afterEmit_upc, hnext, afterEmit_cfg, afterEmit_name, afterEmit_alfnValue, afterEmit_blk,
      Record.block_take _ _ _ _ hnextUpc]
  units := by
    intro i hi hlt
    have hgrow := bitsBefore_succ s.cfg s.name (alfnValue s).toNat s.blk.toNat s.bb s.upc.toNat
    have hend := hinv.blockEnd_le hpos
    have hle := bitsBefore_le s.cfg (s.upc.toNat + 1)
    have hcursor := hpos.cursor
    have hreq := s.nreq.isLt
    rw [hinv.afterEmit_pos_toNat hpos] at hlt
    have hunit : unitAt (afterEmit s s.upc.toNat) (s.outBase + i) = _ :=
      emitBits_unitAt (blockField s.cfg s.name (alfnValue s).toNat s.blk.toNat s.bb s.upc.toNat)
        (beforeEmit s s.upc.toNat) (show s.pos.toNat + _ ≤ _ by omega) (s.outBase + i)
    have haddr : outAddress (beforeEmit s s.upc.toNat) = s.outBase + s.pos.toNat := rfl
    simp only [afterEmit_outBase, afterEmit_cfg, afterEmit_name, afterEmit_nreq] at hi ⊢
    rw [hunit]
    by_cases hold : i < s.pos.toNat
    · rw [dif_neg (by omega)]
      exact hout.units i hi hold
    · have hj : i - s.pos.toNat <
          (blockField s.cfg s.name (alfnValue s).toNat s.blk.toNat s.bb s.upc.toNat).length := by omega
      have hbit := hout.output_at_emitted hinv hpos hupc hj
      rw [Nat.add_sub_cancel' (Nat.not_lt.1 hold), List.getElem?_eq_getElem hi] at hbit
      rw [dif_pos (by omega), Option.some.inj hbit]
      congr 3
      omega

/-! ### BEND -/

/-- BEND of a block writes nothing, and the next block begins with an empty part of its record. -/
theorem outputSoFar_endsBlock (hout : OutputSoFar alfn0 s) :
    OutputSoFar alfn0 { s with blk := s.blk + 1, upc := 0 } where
  alfn := hout.alfn
  buffer := fun hne => absurd rfl hne
  units := hout.units

/-- BEND at the end of a frame that another follows: the next frame carries the next counter value. -/
theorem outputSoFar_nextFrame (hinv : Inv s) (hout : OutputSoFar alfn0 s)
    (hmore : s.frm.toNat + 1 < framesOf s.cfg s.nreq.toNat) :
    OutputSoFar alfn0 { stepAlfn s with frm := s.frm + 1, blk := 0, upc := 0 } where
  alfn := by
    have hnext : (s.frm + 1).toNat = s.frm.toNat + 1 := toNat_succ (hmore.trans (framesOf_lt s.cfg s.nreq))
    simp only [hnext]
    exact hout.alfnValue_stepAlfn hinv
  buffer := fun hne => absurd rfl hne
  units := hout.units

/-- BEND at the end of the last frame: the cursor is at NREQ and ALFN is past the K frames. -/
theorem outputSoFar_finish (hinv : Inv s) (hpos : RunPosition s) (hout : OutputSoFar alfn0 s)
    (hupc : s.upc.toNat = 11) (hblk : s.blk.toNat = s.cfg.blocksPerFrame - 1)
    (hlast : framesOf s.cfg s.nreq.toNat ≤ s.frm.toNat + 1) :
    s.pos.toNat = s.nreq.toNat ∧
      (alfnValue (stepAlfn s)).toNat = (alfn0 + s.nreq.toNat / s.cfg.frameBits) % 2 ^ s.cfg.wAlfn := by
  have hframes : s.frm.toNat + 1 = framesOf s.cfg s.nreq.toNat := by have := hpos.frame; omega
  constructor
  · rw [hinv.pos_at_frameEnd hpos hupc hblk, hframes, ← hpos.nreq_eq]
  · rw [hout.alfnValue_stepAlfn hinv, hframes, framesOf]

end

/-- Settles O54, by what a step of a running ENCODE does. -/
theorem stepKeepsOutputSoFar : Obligations.StepKeepsOutputSoFar := by
  intro alfn0 s t hinv hrun hout h
  have hpos := hinv.running hrun
  obtain ⟨hupc, rfl⟩ | ⟨-, -, rfl⟩ | ⟨hupc, hblk, rfl⟩ := hinv.step_running_cases hrun h
  · exact ⟨fun _ => outputSoFar_afterEmit hinv hpos hout hupc, fun hidle => by simp [hrun] at hidle⟩
  · exact ⟨fun _ => outputSoFar_endsBlock hout, fun hidle => by simp [hrun] at hidle⟩
  · obtain ⟨hmore, he⟩ | ⟨hlast, he⟩ := nextFrame_cases { stepAlfn s with blk := 0 } <;> rw [he]
    · exact ⟨fun _ => outputSoFar_nextFrame hinv hout hmore, fun hidle => by simp [hrun] at hidle⟩
    · exact ⟨fun hrun' => (nomatch hrun'), fun _ => outputSoFar_finish hinv hpos hout hupc hblk hlast⟩

end Sys2Proof.Machine
end

section
/-! PROOFS of the family 20_memory.md, part 1: the units a step writes, whatever the ROM and the region hold. -/

namespace Sys2Proof.Machine

/-! ### Two regions written alike -/

/-- From the contents `l` and `m` of the region to `l'` and `m'` by the same writes of bits: every unit was written
with one bit in both, or in neither. -/
def WrittenAlike (l m l' m' : Memory) : Prop :=
  ∀ a, (∃ x, Memory.read l' a = some (unitOf x) ∧ Memory.read m' a = some (unitOf x)) ∨
    (Memory.read l' a = Memory.read l a ∧ Memory.read m' a = Memory.read m a)

theorem WrittenAlike.refl (l m : Memory) : WrittenAlike l m l m := fun _ => .inr ⟨rfl, rfl⟩

/-- What is written alike and then again is written alike: the last write of a unit counts. -/
theorem WrittenAlike.trans {l m l₁ m₁ l₂ m₂ : Memory} (h₁ : WrittenAlike l m l₁ m₁)
    (h₂ : WrittenAlike l₁ m₁ l₂ m₂) : WrittenAlike l m l₂ m₂ := by
  intro a
  obtain hbit | ⟨hl, hm⟩ := h₂ a
  · exact .inl hbit
  · rw [hl, hm]
    exact h₁ a

theorem WrittenAlike.write (l m : Memory) (a : Nat) (x : Bool) :
    WrittenAlike l m (Memory.write l a (unitOf x)) (Memory.write m a (unitOf x)) := by
  intro y
  by_cases hy : y = a
  · subst hy
    exact .inl ⟨x, Memory.read_write_same .., Memory.read_write_same ..⟩
  · exact .inr ⟨Memory.read_write_other _ _ hy, Memory.read_write_other _ _ hy⟩

/-- The state with other contents of the output region. -/
def withMem (s : State) (m : Memory) : State := { s with mem := m }

/-- Emitting does not read the region, and writes two regions alike. -/
theorem emitBits_withMem (xs : List Bool) : ∀ (s : State) (m : Memory),
    ∃ n, emitBits (withMem s m) xs = withMem (emitBits s xs) n ∧ WrittenAlike s.mem m (emitBits s xs).mem n := by
  induction xs with
  | nil => exact fun s m => ⟨m, rfl, .refl _ _⟩
  | cons x xs ih =>
    intro s m
    obtain ⟨n, he, hn⟩ := ih (emitBit s x) (Memory.write m (outAddress s) (unitOf x))
    exact ⟨n, he, .trans (.write _ _ _ _) hn⟩

/-- Nor does the frame loop of ENCODE read the region. -/
theorem nextFrame_withMem (s : State) (m : Memory) : nextFrame (withMem s m) = withMem (nextFrame s) m := by
  obtain ⟨hlt, he⟩ | ⟨hle, he⟩ := nextFrame_cases s <;> rw [he]
  · exact if_pos hlt
  · exact if_neg (Nat.not_lt.2 hle)

@[simp] theorem nextFrame_mem (s : State) : (nextFrame s).mem = s.mem := by
  obtain ⟨-, he⟩ | ⟨-, he⟩ := nextFrame_cases s <;> rw [he]

/-! ### Outcomes over two regions -/

/-- Two outcomes, from the contents `l` and `m` of the region, that differ in those contents only: next states with
the region written alike, or the same stop. -/
inductive AlikeButMem (l m : Memory) : Host.Outcome State Fault Refusal → Host.Outcome State Fault Refusal → Prop
  | next (t : State) (n : Memory) (hwritten : WrittenAlike l m t.mem n) :
      AlikeButMem l m (.next t) (.next (withMem t n))
  | fault (f : Fault) : AlikeButMem l m (.fault f) (.fault f)
  | refused (r : Refusal) : AlikeButMem l m (.refused r) (.refused r)

/-- A next state whose region is untouched. -/
theorem AlikeButMem.untouched (t : State) (m : Memory) : AlikeButMem t.mem m (.next t) (.next (withMem t m)) :=
  .next t m (.refl _ _)

/-- Micro-ops that emit the same bits over two regions. -/
theorem AlikeButMem.emits (s : State) (m : Memory) (xs : List Bool) :
    AlikeButMem s.mem m (.next (advance (emitBits s xs))) (.next (advance (emitBits (withMem s m) xs))) := by
  obtain ⟨n, he, hn⟩ := emitBits_withMem xs s m
  rw [he]
  exact .next (advance (emitBits s xs)) n hn

theorem AlikeButMem.sameOutcome {l m : Memory} {o o' : Host.Outcome State Fault Refusal} (h : AlikeButMem l m o o') :
    sameOutcome (withMem · []) o o' := by
  cases h <;> rfl

theorem AlikeButMem.writtenAlike {l m : Memory} {t u : State} (h : AlikeButMem l m (.next t) (.next u)) :
    WrittenAlike l m t.mem u.mem := by
  cases h with
  | next _ n hwritten => exact hwritten

/-- No instruction reads the region. -/
theorem exec_withMem (i : Instr) (s : State) (m : Memory) : AlikeButMem s.mem m (exec i s) (exec i (withMem s m)) := by
  cases i with
  | encode n =>
    have hcfg : (withMem s m).cfg = s.cfg := rfl
    simp only [exec, execEncode, hcfg]
    split
    · exact .untouched (raiseFault s _) m
    · split
      · exact .untouched (finishEncode (beginEncode s n)) m
      · exact .untouched (beginFrame { beginEncode s n with frm := 0 }) m
  | bstart => exact .emits { s with bb := [] } m []
  | emit | name | padto | alfnsl => exact .emits s m _
  | crc => exact .emits { s with crc := crcRegister s.bb } m _
  | bend =>
    obtain ⟨hblk, he⟩ | ⟨hblk, he⟩ := execBend_cases s
    · have he' : execBend (withMem s m) = .next _ := if_neg hblk
      rw [exec, exec, he, he']
      exact .untouched { s with blk := s.blk + 1, upc := 0 } m
    · have he' : execBend (withMem s m) = .next (nextFrame (withMem { stepAlfn s with blk := 0 } m)) := if_pos hblk
      rw [exec, exec, he, he', nextFrame_withMem]
      exact .next _ m (by rw [nextFrame_mem]; exact .refl _ _)
  | nop => exact .untouched (respond s 0) m
  | readAlfn => exact .untouched (respond s (alfnValue s)) m
  | readStatus => exact .untouched (respond s (statusWord s)) m
  | readFrameBits => exact .untouched (respond s (frameBitsReg s)) m
  | illegalNopArg | illegalReadAlfnArg | illegalReadStatusArg | illegalReadFrameBitsArg | reservedCmd5
  | reservedCmd6to7 | reservedCmd8toF => exact .untouched (raiseFault s illegalCommand) m
  | reservedMicro7 | reservedMicro8toF => exact .refused _

theorem stepMicro_withMem (s : State) (m : Memory) : AlikeButMem s.mem m (stepMicro s) (stepMicro (withMem s m)) := by
  have hfetch : fetchMicro (withMem s m) = fetchMicro s := rfl
  simp only [stepMicro, hfetch]
  cases fetchMicro s with
  | none => exact .fault _
  | some w =>
    cases hd : decodeMicro w with
    | ok i => simpa only [hd] using exec_withMem i s m
    | error e => simpa only [hd] using .refused _

theorem stepIdle_withMem (s : State) (m : Memory) : AlikeButMem s.mem m (stepIdle s) (stepIdle (withMem s m)) := by
  have hport : (withMem s m).cmd = s.cmd := rfl
  simp only [stepIdle, hport]
  cases s.cmd with
  | none => exact .untouched s m
  | some w => exact exec_withMem (decodeCommand w) (acceptCommand s) m

/-- A step over other contents of the region differs in those contents only, by PHASE and the reset port. -/
theorem step_withMem (s : State) (m : Memory) : AlikeButMem s.mem m (step s) (step (withMem s m)) := by
  have hphase : (withMem s m).phase = s.phase := rfl
  have hport : (withMem s m).rst = s.rst := rfl
  simp only [step, hphase, hport]
  cases s.phase with
  | idle =>
    cases s.rst with
    | none => exact stepIdle_withMem s m
    | some p => exact .untouched (construct s p) m
  | run =>
    cases s.rst with
    | none => exact stepMicro_withMem s m
    | some p => exact .refused _

/-! ### The obligations -/

/-- Settles O47: the step over the other contents writes its region alike. -/
theorem unitNeverReadsRegion : Obligations.UnitNeverReadsRegion := by
  intro s m
  have halike : AlikeButMem s.mem m (step s) (step { s with mem := m }) := step_withMem s m
  refine ⟨halike.sameOutcome, fun t u ht hu a => ?_⟩
  rw [ht, hu] at halike
  obtain ⟨x, htx, hux⟩ | hkept := halike.writtenAlike a
  · exact .inl (htx.trans hux.symm)
  · exact .inr hkept

/-- The output unit of a bit is 0x00 or 0x01 (R29). -/
theorem unitOf_eq_zero_or_one (x : Bool) : unitOf x = 0x00 ∨ unitOf x = 0x01 := by
  cases x
  · exact .inl (by decide)
  · exact .inr (by decide)

/-- Settles O46, by the step over the region's own contents: a unit it does not write with a bit it keeps. -/
theorem writtenUnitsAreBits : Obligations.WrittenUnitsAreBits := by
  intro s t h a hchanged
  have halike : AlikeButMem s.mem s.mem (step s) (step s) := step_withMem s s.mem
  rw [h] at halike
  obtain ⟨x, hx, -⟩ | ⟨hkept, -⟩ := halike.writtenAlike a
  · exact (unitOf_eq_zero_or_one x).imp (fun h0 => hx.trans (congrArg some h0)) fun h1 => hx.trans (congrArg some h1)
  · exact absurd hkept hchanged

end Sys2Proof.Machine
end

section
/-! PROOFS of the family 20_memory.md, part 2: where a running ENCODE writes, and the units of its current block. -/

namespace Sys2Proof.Machine

/-! ### Steps that write nothing -/

/-- A command writes nothing: the first write of an ENCODE comes with its micro-ops (R53). -/
theorem Effect.command_mem {i : Instr} {s t : State} (h : Effect s i t) (hcmd : i.format = .command) :
    t.mem = s.mem := by
  cases h with
  | emits buf reg xs hmicro => simp [hcmd] at hmicro
  | endsBlock hi | endsFrame hi => simp [hi, Instr.format] at hcmd
  | _ => rfl

/-- A command that leaves an idle unit running has begun a frame. -/
theorem Effect.command_upc {i : Instr} {s t : State} (h : Effect s i t) (hcmd : i.format = .command)
    (hidle : s.phase = .idle) (hrun : t.phase = .run) : t.upc = 0 := by
  cases h with
  | responds => simp [hidle] at hrun
  | faults | encodesNothing => cases hrun
  | encodes => rfl
  | emits buf reg xs hmicro => simp [hcmd] at hmicro
  | endsBlock hi | endsFrame hi => simp [hi, Instr.format] at hcmd

/-- The step of an idle unit writes nothing, and where it leaves the unit running, a frame begins. -/
theorem step_of_idle {s t : State} (hidle : s.phase = .idle) (h : step s = .next t) :
    t.mem = s.mem ∧ (t.phase = .run → t.upc = 0) := by
  obtain ⟨p, -, -, rfl⟩ | ⟨-, -, -, rfl⟩ | ⟨w, -, -, -, he⟩ | ⟨w, i, hrun, -⟩ := step_eq_next h
  · exact ⟨rfl, fun hrun => nomatch hrun⟩
  · exact ⟨rfl, fun hrun => by simp [hidle] at hrun⟩
  · have hcmd := format_decodeCommand w
    exact ⟨he.command_mem hcmd, he.command_upc hcmd hidle⟩
  · simp [hidle] at hrun

/-! ### The micro-ops that emit -/

section
variable {s : State}

/-- The cursor after an emitting micro-op: past the field, not past the request, and with no wrap. -/
theorem Inv.pos_add_field (hinv : Inv s) (hpos : RunPosition s) :
    (afterEmit s s.upc.toNat).pos.toNat =
        s.pos.toNat + (blockField s.cfg s.name (alfnValue s).toNat s.blk.toNat s.bb s.upc.toNat).length ∧
      (afterEmit s s.upc.toNat).pos.toNat ≤ s.nreq.toNat := by
  have hend := hinv.blockEnd_le hpos
  have hle := bitsBefore_le s.cfg (s.upc.toNat + 1)
  have hgrow := bitsBefore_succ s.cfg s.name (alfnValue s).toNat s.blk.toNat s.bb s.upc.toNat
  rw [hinv.afterEmit_pos_toNat hpos, hpos.cursor]
  omega

/-- An emitting micro-op of a running ENCODE emits its field of the record. -/
theorem Inv.emitted_afterEmit (hinv : Inv s) (hpos : RunPosition s) :
    Emitted (beforeEmit s s.upc.toNat) (afterEmit s s.upc.toNat)
      (blockField s.cfg s.name (alfnValue s).toNat s.blk.toNat s.bb s.upc.toNat) := by
  obtain ⟨hcursor, hle⟩ := hinv.pos_add_field hpos
  have hreq := s.nreq.isLt
  exact emitted_advance _ _ (show s.pos.toNat + _ ≤ _ by omega)

/-- The buffer an emitting micro-op adds to holds the block's bits so far. -/
theorem RunPosition.beforeEmit_bb_length (hpos : RunPosition s) :
    (beforeEmit s s.upc.toNat).bb.length = bitsBefore s.cfg s.upc.toNat := by
  have hlen := hpos.afterEmit_bb_length
  rw [bitsBefore_succ s.cfg s.name (alfnValue s).toNat s.blk.toNat s.bb, afterEmit_bb, List.length_append] at hlen
  exact Nat.add_right_cancel hlen

end

/-- The units from an address on hold the bits of the block buffer. -/
def MirrorsFrom (s : State) (base : Nat) : Prop :=
  ∀ j (h : j < s.bb.length), unitAt s (base + j) = some (unitOf s.bb[j])

/-- R30, second half, in these words. -/
theorem bufferMirrored_iff (s : State) :
    BufferMirrored s ↔ (s.phase = .run → s.upc ≠ 0 → MirrorsFrom s (s.outBase + blockStart s)) := Iff.rfl

/-- Emitting extends alike the block buffer and the units that mirror it up to the cursor. -/
theorem Emitted.mirrorsFrom {s t : State} {xs : List Bool} {base : Nat} (h : Emitted s t xs)
    (hbase : outAddress s = base + s.bb.length) (hmirror : MirrorsFrom s base) : MirrorsFrom t base := by
  intro j hj
  have hbb : t.bb = s.bb ++ xs := by rw [h.rest]
  simp only [hbb, List.length_append] at hj ⊢
  by_cases hlt : j < s.bb.length
  · rw [h.others _ (.inl (by omega)), hmirror j hlt, List.getElem_append_left hlt]
  · have haddr : base + j = outAddress s + (j - s.bb.length) := by omega
    rw [haddr, h.units _ (by omega), List.getElem_append_right (by omega)]

/-! ### The obligations -/

/-- Settles O45: only an emitting micro-op writes, and what it writes lies between the cursor before and after. -/
theorem writesStayAheadInRegion : Obligations.WritesStayAheadInRegion := by
  intro s t hinv h a hchanged
  have hwrites : t.mem ≠ s.mem := fun hmem => hchanged (by simp only [unitAt, hmem])
  cases hphase : s.phase with
  | idle => exact absurd (step_of_idle hphase h).1 hwrites
  | run =>
    obtain ⟨hupc, rfl⟩ | ⟨-, -, rfl⟩ | ⟨-, -, rfl⟩ := hinv.step_running_cases hphase h
    · have hpos := hinv.running hphase
      obtain ⟨hcursor, hle⟩ := hinv.pos_add_field hpos
      have haddr : outAddress (beforeEmit s s.upc.toNat) = s.outBase + s.pos.toNat := rfl
      have hbetween := mt ((hinv.emitted_afterEmit hpos).others a) hchanged
      exact ⟨rfl, by omega, by omega, hle⟩
    · exact absurd rfl hwrites
    · exact absurd (nextFrame_mem _) hwrites

/-- Settles O49: an emitting micro-op extends buffer and region alike, and every other step leaves UPC at 0 or the
unit idle. -/
theorem bufferMirrorsRegion : Obligations.BufferMirrorsRegion := by
  intro s t hinv hmirror h
  rw [bufferMirrored_iff] at hmirror ⊢
  intro hrun hupc
  cases hphase : s.phase with
  | idle => exact absurd ((step_of_idle hphase h).2 hrun) hupc
  | run =>
    have hpos := hinv.running hphase
    obtain ⟨-, rfl⟩ | ⟨-, -, rfl⟩ | ⟨-, -, rfl⟩ := hinv.step_running_cases hphase h
    · have hlen := hpos.beforeEmit_bb_length
      have haddr : outAddress (beforeEmit s s.upc.toNat) = s.outBase + s.pos.toNat := rfl
      rw [afterEmit_outBase, afterEmit_blockStart]
      refine (hinv.emitted_afterEmit hpos).mirrorsFrom (by rw [haddr, hlen, hpos.cursor, Nat.add_assoc]) fun j hj => ?_
      by_cases h0 : s.upc = 0
      · simp [beforeEmit, h0] at hj
      · have hsame : (beforeEmit s s.upc.toNat).bb = s.bb := if_neg fun hz => h0 (BitVec.eq_of_toNat_eq hz)
        simp only [hsame] at hj ⊢
        exact hmirror hphase h0 j hj
    · exact absurd rfl hupc
    · obtain ⟨-, he⟩ | ⟨-, he⟩ := nextFrame_cases { stepAlfn s with blk := 0 } <;> rw [he] at hrun hupc
      · exact absurd rfl hupc
      · cases hrun

end Sys2Proof.Machine
end

section
/-! PROOFS of the family 30_encoding.md, part 1: the two decoders against the encoder and the rows of the opcode
table (R45 to R50). -/

namespace Sys2Proof

/-! ### The command decoder -/

/-- The row of OP 6 and 7 fixes bits 63:61, so its words have one of these two opcodes. -/
theorem opField_six_or_seven (rest : BitVec 61) :
    (opField (0b011#3 ++ rest)).toNat = 6 ∨ (opField (0b011#3 ++ rest)).toNat = 7 := by
  have hword : (0b011#3 ++ rest).toNat = 2 ^ 61 * 3 + rest.toNat := by
    rw [BitVec.toNat_append, Nat.shiftLeft_eq, Nat.mul_comm]
    exact (Nat.two_pow_add_eq_or_of_lt rest.isLt _).symm
  rw [opField, BitVec.extractLsb'_toNat, Nat.shiftRight_eq_div_pow, hword]
  omega

/-- OP 6 and 7 are one row (R50). -/
theorem decodeCommand_of_six_or_seven {w : Word64} (h : (opField w).toNat = 6 ∨ (opField w).toNat = 7) :
    decodeCommand w = .reservedCmd6to7 (w.extractLsb' 0 61) := by
  obtain hop | hop := h <;> simp only [decodeCommand, hop]

/-- OP 8 to 15 are one row (R50). -/
theorem decodeCommand_of_eight_le {w : Word64} (h : 8 ≤ (opField w).toNat) :
    decodeCommand w = .reservedCmd8toF (w.extractLsb' 0 63) := by
  unfold decodeCommand
  split
  case h_9 => rfl
  all_goals omega

/-- The decoder reads back every command that its row admits. -/
theorem decodeCommand_encode {i : Instr} (hcmd : i.format = .command) (hadm : i.encodable = true) :
    decodeCommand (encode i) = i := by
  cases i with
  | nop | readAlfn | readStatus | readFrameBits => rfl
  | encode n => simp [decodeCommand, encode]
  | reservedCmd5 arg => simp [decodeCommand, encode]
  | illegalNopArg arg | illegalReadAlfnArg arg | illegalReadStatusArg arg | illegalReadFrameBitsArg arg =>
    have harg : arg ≠ 0 := bne_iff_ne.1 hadm
    simp only [decodeCommand, encode, opField_append, argField_append, BitVec.reduceToNat, if_neg harg]
  | reservedCmd6to7 rest =>
    rw [encode, decodeCommand_of_six_or_seven (opField_six_or_seven rest)]
    exact congrArg Instr.reservedCmd6to7 BitVec.extractLsb'_append_eq_right
  | reservedCmd8toF rest =>
    rw [encode, decodeCommand_of_eight_le (opField_ge_eight rest)]
    exact congrArg Instr.reservedCmd8toF BitVec.extractLsb'_append_eq_right
  | _ => cases hcmd

/-- Settles O1. -/
theorem commandDecodeInvertsEncode : Obligations.CommandDecodeInvertsEncode :=
  fun _ hcmd hadm => decodeCommand_encode hcmd hadm

/-- Settles O2. -/
theorem microDecodeInvertsEncode : Obligations.MicroDecodeInvertsEncode :=
  fun _ hmicro => decodeMicro_encode hmicro

/-! ### Every word is the word of its command -/

/-- The word of a known opcode and its ARG. -/
theorem opcode_append_arg {w : Word64} (op : BitVec 4) (hop : (opField w).toNat = op.toNat) :
    op ++ argField w = w := by
  rw [← BitVec.eq_of_toNat_eq hop, op_append_arg]

/-- A word whose opcode is 6 or 7 is its three leading bits and the other 61. -/
theorem three_append_rest {w : Word64} (h : (opField w).toNat = 6 ∨ (opField w).toNat = 7) :
    0b011#3 ++ w.extractLsb' 0 61 = w := by
  have htop : 0b011#3 = w.extractLsb' 61 3 := by
    rw [opField, BitVec.extractLsb'_toNat, Nat.shiftRight_eq_div_pow] at h
    apply BitVec.eq_of_toNat_eq
    rw [BitVec.extractLsb'_toNat, Nat.shiftRight_eq_div_pow, BitVec.toNat_ofNat]
    omega
  have hall : w.extractLsb' 61 3 ++ w.extractLsb' 0 61 = w.extractLsb' 0 64 :=
    BitVec.extractLsb'_append_extractLsb'_eq_extractLsb' rfl
  rw [htop, hall, BitVec.extractLsb'_eq_self]

/-- Whatever the word, it is the word of the command it decodes to, and the row of that command admits it: the exact
row for ARG 0, the ILLEGAL_*_ARG row for any other (R50). -/
theorem encode_decodeCommand (w : Word64) :
    (decodeCommand w).encodable = true ∧ encode (decodeCommand w) = w := by
  unfold decodeCommand
  split
  case h_1 hop | h_3 hop | h_4 hop | h_5 hop =>
    split
    case isTrue harg => exact ⟨rfl, opcode_append_zero _ hop harg⟩
    case isFalse harg => exact ⟨bne_iff_ne.2 harg, opcode_append_arg _ hop⟩
  case h_2 hop | h_6 hop => exact ⟨rfl, opcode_append_arg _ hop⟩
  case h_7 hop => exact ⟨rfl, three_append_rest (.inl hop)⟩
  case h_8 hop => exact ⟨rfl, three_append_rest (.inr hop)⟩
  case h_9 => exact ⟨rfl, one_append_rest (by grind)⟩

/-- Settles O3: the word is its command's, whose row it therefore matches, and the decoder reads back any other
command with that word. -/
theorem everyCommandWordIsOneRow : Obligations.EveryCommandWordIsOneRow := by
  intro w
  obtain ⟨hadm, hword⟩ := encode_decodeCommand w
  have hrow : (decodeCommand w).row.admits (encode (decodeCommand w)) = true := Laws.rowMatch (decodeCommand w)
  rw [hword] at hrow
  refine ⟨format_decodeCommand w, hadm, hword, hrow, fun i hcmd hi he => ?_⟩
  rw [← he, decodeCommand_encode hcmd hi]

/-! ### The micro-op decoder and the rows of the table -/

/-- Two words that a row admits agree in every field that its mask covers. -/
theorem TableRow.extractLsb'_eq_of_admits {r : TableRow} {v w : Word64} (hv : r.admits v = true)
    (hw : r.admits w = true) {start len : Nat} (hmask : r.mask.extractLsb' start len = BitVec.allOnes len) :
    w.extractLsb' start len = v.extractLsb' start len := by
  have hmatch : w &&& r.mask = v &&& r.mask := (beq_iff_eq.1 hw).trans (beq_iff_eq.1 hv).symm
  have hfield := congrArg (BitVec.extractLsb' start len) hmatch
  rwa [BitVec.extractLsb'_and, BitVec.extractLsb'_and, hmask, BitVec.and_allOnes, BitVec.and_allOnes] at hfield

/-- A word that the row of some micro-op admits is a micro-op's word: the fields that the row's mask covers are those
of the row's own word, and the others are operands. -/
theorem exists_encode_of_admits {w : Word64} {i : Instr} (hmicro : i.format = .micro) (h : i.row.admits w = true) :
    ∃ j : Instr, j.format = .micro ∧ encode j = w := by
  have hfield {start len : Nat} : i.row.mask.extractLsb' start len = BitVec.allOnes len →
      w.extractLsb' start len = (encode i).extractLsb' start len :=
    TableRow.extractLsb'_eq_of_admits (Laws.rowMatch i) h
  cases i with
  | bstart | name | alfnsl | crc | bend =>
    have hword := hfield (start := 0) (len := 64) (by decide)
    rw [BitVec.extractLsb'_eq_self, BitVec.extractLsb'_eq_self] at hword
    exact ⟨_, hmicro, hword.symm⟩
  | emit width imm =>
    have hop : opField w = 0x1#4 := (hfield (by rw [Instr.row]; decide)).trans (opField_microWord ..)
    have hres : reservedField w = 0#22 := (hfield (by rw [Instr.row]; decide)).trans (reservedField_microWord ..)
    refine ⟨.emit (widthField w) (immField w), rfl, ?_⟩
    rw [encode, ← hop, ← hres, op_append_fields]
  | padto imm =>
    have hop : opField w = 0x3#4 := (hfield (by rw [Instr.row]; decide)).trans (opField_microWord ..)
    have hwidth : widthField w = 0#6 := (hfield (by rw [Instr.row]; decide)).trans (widthField_microWord ..)
    have hres : reservedField w = 0#22 := (hfield (by rw [Instr.row]; decide)).trans (reservedField_microWord ..)
    refine ⟨.padto (immField w), rfl, ?_⟩
    rw [encode, ← hop, ← hwidth, ← hres, op_append_fields]
  | reservedMicro7 rest =>
    have hop : opField w = 0x7#4 := (hfield (by rw [Instr.row]; decide)).trans (opField_append ..)
    exact ⟨.reservedMicro7 (argField w), rfl, opcode_append_arg _ (congrArg _ hop)⟩
  | reservedMicro8toF rest =>
    have htop : w.extractLsb' 63 1 = 1#1 := (hfield (by rw [Instr.row]; decide)).trans BitVec.extractLsb'_append_eq_left
    refine ⟨.reservedMicro8toF (w.extractLsb' 0 63), rfl, ?_⟩
    have hall : w.extractLsb' 63 1 ++ w.extractLsb' 0 63 = w.extractLsb' 0 64 :=
      BitVec.extractLsb'_append_extractLsb'_eq_extractLsb' rfl
    rw [encode, ← htop, hall, BitVec.extractLsb'_eq_self]
  | _ => cases hmicro

/-- The only answer of the decoder that is no micro-op names the word. -/
theorem decodeMicro_cases (w : Word64) :
    (∃ i, decodeMicro w = .ok i) ∨ decodeMicro w = .error (.fixedFieldNotZero w) := by
  unfold decodeMicro
  split
  case h_8 | h_9 => exact .inl ⟨_, rfl⟩
  all_goals
    split
    · exact .inl ⟨_, rfl⟩
    · exact .inr rfl

/-- Settles O4: a word decodes to the micro-op whose word it is, and where it is none's, no row admits it. -/
theorem microWordsDecodeExactly : Obligations.MicroWordsDecodeExactly := by
  intro w
  refine ⟨fun i => ⟨encode_of_decodeMicro, ?_⟩, fun herr i hmicro => ?_, fun hrow => ?_⟩
  · rintro ⟨hmicro, rfl⟩
    exact decodeMicro_encode hmicro
  · rw [Bool.eq_false_iff]
    intro hadm
    obtain ⟨j, hj, rfl⟩ := exists_encode_of_admits hmicro hadm
    rw [decodeMicro_encode hj] at herr
    cases herr
  · obtain ⟨e, he⟩ := Machine.decodeMicro_of_no_row hrow
    obtain ⟨i, hi⟩ | herr := decodeMicro_cases w
    · cases he.symm.trans hi
    · exact herr

end Sys2Proof
end

section
/-! PROOFS of the family 30_encoding.md, part 2: the output record bit by bit (R43, R44), and the pass of the
micro-program that emits a block of it (R68). -/

namespace Sys2Proof

open Machine

/-! ### The bits of a field -/

/-- Bit `i` of a field in emission order is bit `w − 1 − i` of its value (R13). -/
theorem fieldBits_getElem? (v : Nat) {w i : Nat} (h : i < w) : (fieldBits v w)[i]? = some (v.testBit (w - 1 - i)) := by
  have hlen : i < (fieldBits v w).length := by rwa [fieldBits_length]
  rw [List.getElem?_eq_getElem hlen, fieldBits_getElem]

/-- Where every element gives a list of one length, entry `j` of the `i`-th list is at `i * len + j`. -/
theorem getElem?_flatMap_of_length {α β : Type} {f : α → List β} {len : Nat} (hlen : ∀ a, (f a).length = len)
    {j : Nat} (hj : j < len) : ∀ {l : List α} {i : Nat} (hi : i < l.length),
      (l.flatMap f)[i * len + j]? = (f l[i])[j]?
  | a :: l, 0, _ => by
    rw [List.flatMap_cons, Nat.zero_mul, Nat.zero_add, List.getElem?_append_left (by rwa [hlen]), List.getElem_cons_zero]
  | a :: l, i + 1, hi => by
    have hindex : (i + 1) * len + j = len + (i * len + j) := by ring
    rw [List.flatMap_cons, hindex, ← hlen a, List.getElem?_append_right (Nat.le_add_right _ _), Nat.add_sub_cancel_left,
      hlen a, getElem?_flatMap_of_length hlen hj (Nat.lt_of_succ_lt_succ hi), List.getElem_cons_succ]

/-- Bit `i` of the code of character `k` in the name sub-block (R75). -/
theorem nameBits_getElem? (name : Vector Byte 32) (k : Fin 32) (i : Fin 5) :
    (nameBits name)[k.val * 5 + i.val]? = some ((charMap name[k.val]).getLsbD (4 - i.val)) := by
  have hk : k.val < name.toList.length := by simp
  rw [nameBits, getElem?_flatMap_of_length charBits_length i.isLt hk, Vector.getElem_toList]
  exact fieldBits_getElem? _ i.isLt

/-! ### The fields at their offsets -/

section record
variable (c : Config) (name : Vector Byte 32) (alfn b : Nat)

/-- Past the bits of the micro-ops before UPC `k`, a block goes on with the field of that micro-op. -/
theorem Record.block_getElem?_field {k j : Nat} (hk : k < 11)
    (hj : j < (blockField c name alfn b (Record.upTo c name alfn b k) k).length) :
    (Record.block c name alfn b)[bitsBefore c k + j]? =
      (blockField c name alfn b (Record.upTo c name alfn b k) k)[j]? := by
  have hlen := Record.upTo_length c name alfn b k
  have hgrow := bitsBefore_succ c name alfn b (Record.upTo c name alfn b k) k
  calc (Record.block c name alfn b)[bitsBefore c k + j]?
    _ = (Record.upTo c name alfn b (k + 1))[bitsBefore c k + j]? := by
      rw [← Record.block_take c name alfn b (show k + 1 ≤ 11 from hk), List.getElem?_take_of_lt (by omega)]
    _ = (blockField c name alfn b (Record.upTo c name alfn b k) k)[j]? := by
      rw [Record.upTo, List.getElem?_append_right (by omega), hlen, Nat.add_sub_cancel_left]

/-- Bit `i` of the field that the micro-op at UPC `k` emits, where that field is a value's `w` bits. -/
theorem Record.block_getElem?_value {k w i : Nat} (v : Nat) (hk : k < 11)
    (hfield : blockField c name alfn b (Record.upTo c name alfn b k) k = fieldBits v w) (hi : i < w) :
    (Record.block c name alfn b)[bitsBefore c k + i]? = some (v.testBit (w - 1 - i)) := by
  rw [Record.block_getElem?_field c name alfn b hk (by rwa [hfield, fieldBits_length]), hfield, fieldBits_getElem? v hi]

/-- Bit `i` of the code of character `k`, in the field at offset 34. -/
theorem Record.block_getElem?_name (k : Fin 32) (i : Fin 5) :
    (Record.block c name alfn b)[34 + 5 * k.val + i.val]? = some ((charMap name[k.val]).getLsbD (4 - i.val)) := by
  have hindex : 34 + 5 * k.val + i.val = bitsBefore c 4 + (k.val * 5 + i.val) := by
    rw [Nat.add_assoc, Nat.mul_comm]
    rfl
  have hlt : k.val * 5 + i.val < (nameBits name).length := by rw [nameBits_length]; omega
  rw [hindex, Record.block_getElem?_field c name alfn b (k := 4) (by decide) hlt]
  exact nameBits_getElem? name k i

/-- The bits from the head to PAYLOAD_BITS are padding. -/
theorem Record.block_getElem?_padding {j : Nat} (hle : headBits ≤ j) (hlt : j < c.payloadBits) :
    (Record.block c name alfn b)[j]? = some false := by
  have hfield : blockField c name alfn b (Record.upTo c name alfn b 6) 6 =
      List.replicate (c.payloadBits - headBits) padBit := rfl
  have hindex : j = bitsBefore c 6 + (j - headBits) := (Nat.add_sub_cancel' hle).symm
  have hin : j - headBits < c.payloadBits - headBits := Nat.sub_lt_sub_right hle hlt
  rw [hindex, Record.block_getElem?_field c name alfn b (by decide) (by rwa [hfield, List.length_replicate]), hfield,
    List.getElem?_replicate, if_pos hin, padBit]

/-- The last twelve bits are the checksum of the bits before them. -/
theorem Record.block_getElem?_checksum {i : Nat} (hi : i < 12) :
    (Record.block c name alfn b)[c.payloadBits + 4 + i]? =
      some ((crc12 ((Record.block c name alfn b).take (c.payloadBits + 4))).getLsbD (11 - i)) := by
  have hcovered : (Record.block c name alfn b).take (c.payloadBits + 4) = Record.upTo c name alfn b 10 :=
    Record.block_take c name alfn b (k := 10) (by decide)
  rw [hcovered]
  exact Record.block_getElem?_value c name alfn b (k := 10) _ (by decide) rfl hi

end record

/-- Settles O60: a block field by field, each at the offset where its micro-op emits it, and the blocks and frames by
their place in the output. -/
theorem outputRecordFollowsTable : Obligations.OutputRecordFollowsTable := by
  refine ⟨fun c name a b => ?block, fun c name a k => ⟨Record.output_length c name a k, fun f b j hf hb hj => ?place⟩⟩
  case block =>
    have hvalue {k w : Nat} (i v : Nat) (hk : k < 11)
        (hfield : blockField c name a b (Record.upTo c name a b k) k = fieldBits v w) (hi : i < w) :=
      Record.block_getElem?_value c name a b v hk hfield hi
    have hslice (i : Nat) := Record.block_getElem?_field c name a b (k := 9) (j := i) (by decide)
    exact ⟨Record.block_length c name a b,
      hvalue (k := 1) 0 _ (by decide) rfl (by decide),
      hvalue (k := 2) 0 _ (by decide) rfl (by decide),
      fun i hi => hvalue (k := 3) i _ (by decide) rfl hi,
      Record.block_getElem?_name c name a b,
      hvalue (k := 5) 0 _ (by decide) rfl (by decide),
      hvalue (k := 5) 1 _ (by decide) rfl (by decide),
      fun _ hle hlt => Record.block_getElem?_padding c name a b hle hlt,
      hvalue (k := 7) 0 _ (by decide) rfl (by decide),
      hvalue (k := 8) 0 _ (by decide) rfl (by decide),
      hslice 0 Nat.zero_lt_two,
      hslice 1 Nat.one_lt_two,
      fun _ hi => Record.block_getElem?_checksum c name a b hi⟩
  case place =>
    have hindex : f * c.frameBits + b * c.blockBits + j = (f * c.blocksPerFrame + b) * c.blockBits + j := by
      rw [Config.frameBits_eq]; ring
    rw [hindex, Record.output_getElem? c name a b hf hb hj]

end Sys2Proof

namespace Sys2Proof.Machine

/-! ### One pass of the micro-program -/

/-- A run goes on from where a shorter run ends. -/
theorem runSteps_add {m : Nat} (n : Nat) {s t : State} (h : runSteps m s = .next t) :
    runSteps (m + n) s = runSteps n t := by
  induction m generalizing s with
  | zero => cases h; rw [Nat.zero_add]
  | succ m ih =>
    rw [Nat.succ_add]
    simp only [runSteps] at h ⊢
    cases hs : step s with
    | next v =>
      rw [hs] at h
      exact ih h
    | fault | refused => simp [hs] at h

/-- A run that is one step longer. -/
theorem runSteps_succ_of_next {n : Nat} {s t u : State} (h : runSteps n s = .next t) (hstep : step t = .next u) :
    runSteps (n + 1) s = .next u := by
  rw [runSteps_add 1 h, runSteps, hstep]
  rfl

/-- The state `t` stands `k` micro-ops into the block at whose start `s` stands: UPC is `k`, the buffer holds the
fields so far (once BSTART has emptied it), and what the pass reads is as in `s`. -/
structure IntoBlock (s : State) (k : Nat) (t : State) : Prop where
  inv : Inv t
  run : t.phase = .run
  rst : t.rst = none
  upc : t.upc.toNat = k
  cfg : t.cfg = s.cfg
  start : blockStart t = blockStart s
  buffer : k ≠ 0 → t.bb = Record.upTo s.cfg s.name (alfnValue s).toNat s.blk.toNat k
  name : t.name = s.name
  alfn : alfnValue t = alfnValue s
  blk : t.blk = s.blk

section
variable {s t : State} {k : Nat}

/-- Each micro-op before BEND takes the pass one field further. -/
theorem IntoBlock.next (h : IntoBlock s k t) (hk : k < 11) :
    step t = .next (afterEmit t k) ∧ IntoBlock s (k + 1) (afterEmit t k) := by
  obtain ⟨hinv, hrun, hrst, rfl, hcfg, hstart, hbuf, hname, halfn, hblk⟩ := h
  have hstep := hinv.step_emits hrun hrst hk
  obtain ⟨-, -, -, hport⟩ := step_frame hstep hrst
  exact ⟨hstep, {
    inv := inv_afterEmit hinv hrun hk
    run := by rwa [afterEmit_phase]
    rst := hport
    upc := by rw [afterEmit_upc, toNat_succ (by omega)]
    cfg := by rwa [afterEmit_cfg]
    start := by rwa [afterEmit_blockStart]
    buffer := fun _ => by
      rw [afterEmit_bb, Record.upTo, hcfg, hname, halfn, hblk]
      by_cases h0 : t.upc.toNat = 0
      · rw [if_pos h0, h0]
        rfl
      · rw [if_neg h0, hbuf h0]
    name := by rwa [afterEmit_name]
    alfn := by rwa [afterEmit_alfnValue]
    blk := by rwa [afterEmit_blk] }⟩

/-- The cursor of a pass has moved by the bits of the micro-ops so far. -/
theorem IntoBlock.pos_eq (hpos : RunPosition s) (hupc : s.upc = 0) (h : IntoBlock s k t) :
    t.pos.toNat = s.pos.toNat + bitsBefore s.cfg k := by
  rw [(h.inv.running h.run).cursor, hpos.cursor, h.start, h.cfg, h.upc, hupc]
  rfl

/-- From the start of a block, every run of at most eleven steps is a part of its pass. -/
theorem exists_intoBlock (hinv : Inv s) (hrun : s.phase = .run) (hrst : s.rst = none) (hupc : s.upc = 0)
    (hk : k ≤ 11) : ∃ t, runSteps k s = .next t ∧ IntoBlock s k t := by
  induction k with
  | zero =>
    have hstart : s.upc.toNat = 0 := by rw [hupc]; rfl
    exact ⟨s, rfl, hinv, hrun, hrst, hstart, rfl, rfl, fun hne => absurd rfl hne, rfl, rfl, rfl⟩
  | succ k ih =>
    obtain ⟨t, hsteps, hinto⟩ := ih (Nat.le_of_succ_le hk)
    obtain ⟨hstep, hnext⟩ := hinto.next hk
    exact ⟨_, runSteps_succ_of_next hsteps hstep, hnext⟩

end

/-- Settles O53: the pass holds the fields of the micro-ops so far, which are the beginning of the block, and after
eleven of them the block. -/
theorem passEmitsBlockRecord : Obligations.PassEmitsBlockRecord := by
  intro s hinv hrun hrst hupc
  constructor
  · intro k hk1 hk
    obtain ⟨t, hsteps, hinto⟩ := exists_intoBlock hinv hrun hrst hupc hk
    refine ⟨t, hsteps, hinto.run, hinto.upc, ?_, hinto.pos_eq (hinv.running hrun) hupc⟩
    rw [Record.block_take _ _ _ _ hk, hinto.buffer (by omega)]
  · obtain ⟨t, hsteps, hinto⟩ := exists_intoBlock hinv hrun hrst hupc (le_refl 11)
    have hbb : t.bb = Record.block s.cfg s.name (alfnValue s).toNat s.blk.toNat := by
      rw [hinto.buffer (by decide), Record.upTo_bend]
    exact ⟨t, hsteps, hbb, by rw [hbb, Record.block_length]⟩

end Sys2Proof.Machine
end

section
/-! PROOFS of the family 30_encoding.md, part 3: the words the spec writes out, the assembler's statements (R52), and
the reserved micro-ops (R50). -/

namespace Sys2Proof.Machine

/-- Settles O5, word by word. -/
theorem specWordsDecode : Obligations.SpecWordsDecode :=
  ⟨rfl, rfl, rfl, rfl, rfl, rfl, rfl, rfl, rfl, rfl⟩

/-- `encode N` gives the ENCODE word with N in its ARG field, for every N of 60 bits (R46, R52). -/
theorem assembleEncode_toNat (n : BitVec 60) :
    assembleEncode n.toNat = some (.command (0x1000000000000000 ||| n.setWidth 64)) := by
  have hword : encode (.encode n) = 0x1000000000000000 ||| n.setWidth 64 := by
    rw [encode, BitVec.append_def, BitVec.setWidth'_eq]
    rfl
  rw [assembleEncode, if_pos n.isLt, BitVec.ofNat_toNat, BitVec.setWidth_eq, hword]

/-- Settles O6, statement by statement. -/
theorem assemblerStatementsGiveWords : Obligations.AssemblerStatementsGiveWords := by
  intro c
  refine ⟨rfl, rfl, rfl, rfl, assembleEncode_toNat, fun n hn => if_neg (Nat.not_lt.2 hn), fun _ => rfl, fun v => ?_,
    fun _ _ => rfl, fun _ => rfl⟩
  rw [assemble, if_pos v.isLt, BitVec.ofNat_toNat, BitVec.setWidth_eq]

/-- Settles O27: the refusal of a word of the second row names its opcode, which is 8 or more. -/
theorem reservedMicroOpsAreRefused : Obligations.ReservedMicroOpsAreRefused :=
  fun _ => ⟨fun _ => rfl, fun rest => ⟨opField (encode (.reservedMicro8toF rest)), opField_ge_eight rest, rfl, rfl⟩⟩

end Sys2Proof.Machine
end

section
/-! PROOFS of the family 40_host_commands.md, part 1: one ENCODE from its acceptance to its end (R53, R66, R69). -/

namespace Sys2Proof

/-! ### The records of consecutive requests -/

theorem Config.wellFormed.frameBits_pos {c : Config} (h : c.wellFormed = true) : 0 < c.frameBits := by
  rw [Config.frameBits_eq, Config.blockBits_eq]
  exact Nat.mul_pos (Config.wellFormed.blocksPerFrame_pos h) (Nat.succ_pos _)

theorem Config.wellFormed.frameBits_lt {c : Config} (h : c.wellFormed = true) : c.frameBits < 2 ^ 60 := by
  obtain ⟨-, -, -, -, -, -, -, -, -, -, hle⟩ := c.wellFormed_iff.1 h
  omega

/-- The record of `k + m` frames is that of the first `k`, then that of `m` frames from the counter value `k` on. -/
theorem Record.output_add (c : Config) (name : Vector Byte 32) (alfn0 k m : Nat) :
    Record.output c name alfn0 (k + m) =
      Record.output c name alfn0 k ++ Record.output c name ((alfn0 + k) % 2 ^ c.wAlfn) m := by
  simp only [Record.output, List.range_add, List.flatMap_append, List.flatMap_map, Nat.mod_add_mod, Nat.add_assoc]

end Sys2Proof

namespace Sys2Proof.Machine

/-! ### What an ENCODE leaves behind -/

/-- From the idle state `s` to the idle state `t`, `k` frames were put out at `base` and nothing else that a later
command can observe has changed: the units hold the record, ALFN has advanced by `k` (R44, R53, R66). -/
structure FramesWritten (s : State) (base k : Nat) (t : State) : Prop where
  inv : Inv t
  idle : t.phase = .idle
  rst : t.rst = none
  cfg : t.cfg = s.cfg
  name : t.name = s.name
  status : t.status = s.status
  alfn : (alfnValue t).toNat = ((alfnValue s).toNat + k) % 2 ^ s.cfg.wAlfn
  units : ∀ i x, (Record.output s.cfg s.name (alfnValue s).toNat k)[i]? = some x →
    unitAt t (base + i) = some (unitOf x)
  others : ∀ a, (a < base ∨ base + k * s.cfg.frameBits ≤ a) → unitAt t a = unitAt s a

/-- What an ENCODE of `n` units, accepted in `s`, keeps while it runs and when it ends (R53). -/
structure EncodeKeeps (s : State) (n : BitVec 60) (t : State) : Prop where
  outBase : t.outBase = s.cmdBase
  nreq : t.nreq = n
  status : t.status = s.status
  name : t.name = s.name
  cfg : t.cfg = s.cfg
  rom : t.rom = s.rom
  cmd : t.cmd = none
  rst : t.rst = none
  freeCount : t.freeCount = s.freeCount
  others : ∀ a, (a < s.cmdBase ∨ s.cmdBase + n.toNat ≤ a) → unitAt t a = unitAt s a

/-- `t` is a state of the running ENCODE of `n` units that was accepted in `s`. -/
structure Encoding (s : State) (n : BitVec 60) (t : State) : Prop where
  inv : Inv t
  run : t.phase = .run
  output : OutputSoFar (alfnValue s).toNat t
  keeps : EncodeKeeps s n t

/-- The ENCODE of `n` units that was accepted in `s` has ended in `t` (R53, R66). -/
structure Encoded (s : State) (n : BitVec 60) (t : State) : Prop where
  written : FramesWritten s s.cmdBase (n.toNat / s.cfg.frameBits) t
  keeps : EncodeKeeps s n t
  pos : t.pos = n
  rsp : t.rsp = some (n.setWidth 64)

/-! ### Frames written one request after another -/

section
variable {s t u : State} {base k m : Nat}

/-- The counter value is one of `W_ALFN` bits. -/
theorem Inv.alfnValue_mod (hinv : Inv s) : (alfnValue s).toNat % 2 ^ s.cfg.wAlfn = (alfnValue s).toNat :=
  Nat.mod_eq_of_lt (by rw [hinv.alfnValue_toNat]; exact hinv.alfn)

/-- Writing no frame. -/
theorem FramesWritten.zero (hinv : Inv t) (hidle : t.phase = .idle) (hrst : t.rst = none) (hcfg : t.cfg = s.cfg)
    (hname : t.name = s.name) (hstatus : t.status = s.status) (halfn : t.alfn = s.alfn) (hmem : t.mem = s.mem) :
    FramesWritten s base 0 t where
  inv := hinv
  idle := hidle
  rst := hrst
  cfg := hcfg
  name := hname
  status := hstatus
  alfn := by
    have hvalue : alfnValue s = alfnValue t := by simp only [alfnValue, hcfg, halfn]
    rw [hvalue, ← hcfg, Nat.add_zero, hinv.alfnValue_mod]
  units := fun i x h => by simp [Record.output] at h
  others := fun a _ => by simp only [unitAt, hmem]

/-- `k` frames and then `m` frames at the following base are `k + m` frames. -/
theorem FramesWritten.trans (h₁ : FramesWritten s base k t)
    (h₂ : FramesWritten t (base + k * s.cfg.frameBits) m u) : FramesWritten s base (k + m) u where
  inv := h₂.inv
  idle := h₂.idle
  rst := h₂.rst
  cfg := h₂.cfg.trans h₁.cfg
  name := h₂.name.trans h₁.name
  status := h₂.status.trans h₁.status
  alfn := by rw [h₂.alfn, h₁.alfn, h₁.cfg, Nat.mod_add_mod, Nat.add_assoc]
  units := by
    intro i x hx
    have hlen := Record.output_length s.cfg s.name (alfnValue s).toNat k
    have hunits := h₂.units
    rw [h₁.cfg, h₁.name, h₁.alfn] at hunits
    rw [Record.output_add] at hx
    by_cases hi : i < k * s.cfg.frameBits
    · rw [List.getElem?_append_left (by omega)] at hx
      rw [h₂.others _ (.inl (by omega)), h₁.units i x hx]
    · rw [List.getElem?_append_right (by omega), hlen] at hx
      rw [← hunits _ x hx]
      congr 1
      omega
  others := by
    intro a ha
    have hothers := h₂.others a
    rw [Nat.add_mul] at ha
    rw [h₁.cfg] at hothers
    rw [hothers (by omega), h₁.others a (by omega)]

/-- The frames written determine the output region, ALFN, NAME and STATUS. -/
theorem FramesWritten.same (h₁ : FramesWritten s base k t) (h₂ : FramesWritten s base k u) :
    t.mem = u.mem ∧ t.alfn = u.alfn ∧ t.name = u.name ∧ t.status = u.status := by
  refine ⟨Memory.ext_of_wf h₁.inv.memory h₂.inv.memory fun a => ?_, BitVec.eq_of_toNat_eq ?_,
    h₁.name.trans h₂.name.symm, h₁.status.trans h₂.status.symm⟩
  · show unitAt t a = unitAt u a
    by_cases ha : a < base ∨ base + k * s.cfg.frameBits ≤ a
    · rw [h₁.others a ha, h₂.others a ha]
    · have hlen := Record.output_length s.cfg s.name (alfnValue s).toNat k
      have hbit := List.getElem?_eq_getElem (l := Record.output s.cfg s.name (alfnValue s).toNat k)
        (i := a - base) (by omega)
      have haddr : a = base + (a - base) := by omega
      rw [haddr, h₁.units _ _ hbit, h₂.units _ _ hbit]
  · rw [← h₁.inv.alfnValue_toNat, ← h₂.inv.alfnValue_toNat, h₁.alfn, h₂.alfn]

end

/-! ### The micro-ops left -/

section
variable {s t u : State} {n : BitVec 60}

theorem microOpsLeft_of_run (hrun : t.phase = .run) : microOpsLeft t =
    12 * ((framesOf t.cfg t.nreq.toNat - t.frm.toNat) * t.cfg.blocksPerFrame - t.blk.toNat) - t.upc.toNat := by
  simp only [microOpsLeft, hrun]

theorem microOpsLeft_of_idle (hidle : t.phase = .idle) : microOpsLeft t = 0 := by
  simp only [microOpsLeft, hidle]

/-- The blocks of the current frame and of the frames after it. -/
theorem RunPosition.blocksLeft_eq (hpos : RunPosition t) :
    (framesOf t.cfg t.nreq.toNat - t.frm.toNat) * t.cfg.blocksPerFrame =
      (framesOf t.cfg t.nreq.toNat - (t.frm.toNat + 1)) * t.cfg.blocksPerFrame + t.cfg.blocksPerFrame := by
  have hframe := hpos.frame
  rw [← Nat.succ_mul]
  congr 1
  omega

/-- BEND of the last block of a frame leaves the micro-ops of the frames to come. -/
theorem microOpsLeft_endsFrame (hrun : t.phase = .run) :
    microOpsLeft (nextFrame { stepAlfn t with blk := 0 }) =
      12 * ((framesOf t.cfg t.nreq.toNat - (t.frm.toNat + 1)) * t.cfg.blocksPerFrame) := by
  obtain ⟨hmore, he⟩ | ⟨hlast, he⟩ := nextFrame_cases { stepAlfn t with blk := 0 }
  · have hnext : (t.frm + 1).toNat = t.frm.toNat + 1 := toNat_succ (hmore.trans (framesOf_lt t.cfg t.nreq))
    have hphase : (nextFrame { stepAlfn t with blk := 0 }).phase = .run := by rw [he]; exact hrun
    rw [microOpsLeft_of_run hphase, he]
    simp only [stepAlfn_cfg, stepAlfn_nreq, stepAlfn_frm, hnext]
    rfl
  · have hnone : framesOf t.cfg t.nreq.toNat - (t.frm.toNat + 1) = 0 := Nat.sub_eq_zero_of_le hlast
    rw [he, microOpsLeft_of_idle rfl, hnone, Nat.zero_mul]

/-- Every step of a running ENCODE is one of the micro-ops left to execute (R69). -/
theorem Inv.microOpsLeft_step (hinv : Inv t) (hrun : t.phase = .run) (h : step t = .next u) :
    microOpsLeft t = microOpsLeft u + 1 := by
  have hblk := hinv.blk
  rw [microOpsLeft_of_run hrun, (hinv.running hrun).blocksLeft_eq]
  obtain ⟨hupc, rfl⟩ | ⟨hupc, hother, rfl⟩ | ⟨hupc, hlast, rfl⟩ := hinv.step_running_cases hrun h
  · have hnext : (t.upc + 1).toNat = t.upc.toNat + 1 := toNat_succ (by omega)
    rw [microOpsLeft_of_run (by rwa [afterEmit_phase])]
    simp only [afterEmit_cfg, afterEmit_nreq, afterEmit_frm, afterEmit_blk, afterEmit_upc, hnext,
      (hinv.running hrun).blocksLeft_eq]
    omega
  · have hle := Config.wellFormed.blocksPerFrame_le hinv.config
    have hnext : (t.blk + 1).toNat = t.blk.toNat + 1 := toNat_succ (by omega)
    have hzero : (0 : BitVec 4).toNat = 0 := rfl
    rw [microOpsLeft_of_run (t := { t with blk := t.blk + 1, upc := 0 }) hrun]
    simp only [hnext, hzero, (hinv.running hrun).blocksLeft_eq]
    omega
  · rw [microOpsLeft_endsFrame hrun]
    omega

/-! ### The steps of a running ENCODE -/

/-- Under the invariant a running unit without a reset event goes on. -/
theorem Inv.exists_step (hinv : Inv t) (hrun : t.phase = .run) (hrst : t.rst = none) : ∃ u, step t = .next u := by
  have hupc := hinv.upc
  by_cases hlt : t.upc.toNat < 11
  · exact ⟨_, hinv.step_emits hrun hrst hlt⟩
  · rw [hinv.step_bend hrun hrst (by omega)]
    obtain ⟨-, he⟩ | ⟨-, he⟩ := execBend_cases t <;> exact ⟨_, he⟩

/-- The registers and ports that no micro-op of a running ENCODE changes. -/
theorem Inv.step_running_keeps (hinv : Inv t) (hrun : t.phase = .run) (h : step t = .next u) :
    u.outBase = t.outBase ∧ u.nreq = t.nreq ∧ u.status = t.status ∧ u.cmd = t.cmd ∧ u.freeCount = t.freeCount := by
  obtain ⟨-, rfl⟩ | ⟨-, -, rfl⟩ | ⟨-, -, rfl⟩ := hinv.step_running_cases hrun h
  · simp [afterEmit, beforeEmit]
  · exact ⟨rfl, rfl, rfl, rfl, rfl⟩
  · obtain ⟨-, he⟩ | ⟨-, he⟩ := nextFrame_cases { stepAlfn t with blk := 0 } <;> rw [he] <;> simp

/-- A micro-op of a running ENCODE writes no unit outside the request. -/
theorem EncodeKeeps.step (hkeeps : EncodeKeeps s n t) (hinv : Inv t) (hrun : t.phase = .run)
    (h : step t = .next u) : EncodeKeeps s n u := by
  obtain ⟨hcfg, hrom, hname, hrst⟩ := step_frame h hkeeps.rst
  obtain ⟨hbase, hnreq, hstatus, hcmd, hcount⟩ := hinv.step_running_keeps hrun h
  exact {
    outBase := hbase.trans hkeeps.outBase
    nreq := hnreq.trans hkeeps.nreq
    status := hstatus.trans hkeeps.status
    name := hname.trans hkeeps.name
    cfg := hcfg.trans hkeeps.cfg
    rom := hrom.trans hkeeps.rom
    cmd := hcmd.trans hkeeps.cmd
    rst := hrst
    freeCount := hcount.trans hkeeps.freeCount
    others := fun a ha => by
      rw [← hkeeps.others a ha]
      by_contra hchanged
      obtain ⟨-, hfrom, hto, hend⟩ := writesStayAheadInRegion t u hinv h a hchanged
      rw [hkeeps.outBase] at hfrom hto
      rw [hkeeps.nreq] at hend
      omega }

/-- Where a running ENCODE has stepped to idle, it has ended as R53 and R66 say. -/
theorem Encoding.encoded (henc : Encoding s n t) (h : step t = .next u) (hidle : u.phase = .idle) :
    Encoded s n u := by
  obtain ⟨hinv, hrun, hout, hkeeps⟩ := henc
  have hkeepsu := hkeeps.step hinv hrun h
  have hpos := hinv.running hrun
  obtain ⟨hcursor, halfn⟩ := (stepKeepsOutputSoFar _ t u hinv hrun hout h).2 hidle
  have hend : u.mem = t.mem ∧ u.pos = t.pos ∧ u.rsp = some (t.nreq.setWidth 64) := by
    obtain ⟨-, rfl⟩ | ⟨-, -, rfl⟩ | ⟨-, -, rfl⟩ := hinv.step_running_cases hrun h
    · simp [hrun] at hidle
    · simp [hrun] at hidle
    · obtain ⟨-, he⟩ | ⟨-, he⟩ := nextFrame_cases { stepAlfn t with blk := 0 } <;> rw [he] at hidle ⊢
      · simp [hrun] at hidle
      · exact ⟨rfl, rfl, rfl⟩
  obtain ⟨hmem, hposu, hrsp⟩ := hend
  rw [hkeeps.nreq] at hcursor halfn hrsp
  rw [hkeeps.cfg] at halfn
  have hwhole := hpos.nreq_eq
  rw [hkeeps.nreq, hkeeps.cfg, framesOf] at hwhole
  exact {
    written := {
      inv := stepKeepsInvariant t u hinv h
      idle := hidle
      rst := hkeepsu.rst
      cfg := hkeepsu.cfg
      name := hkeepsu.name
      status := hkeepsu.status
      alfn := halfn
      units := fun i x hx => by
        have hunits := hout.units
        rw [hkeeps.cfg, hkeeps.name, hkeeps.nreq, hkeeps.outBase, framesOf] at hunits
        obtain ⟨hi, rfl⟩ := List.getElem?_eq_some_iff.1 hx
        have hlt : i < t.pos.toNat := by rwa [← hposu, hcursor, hwhole, ← Record.output_length]
        rw [← hunits i hi hlt]
        simp only [unitAt, hmem]
      others := fun a ha => hkeepsu.others a (by rwa [hwhole]) }
    keeps := hkeepsu
    pos := BitVec.eq_of_toNat_eq hcursor
    rsp := hrsp }

/-- Where a running ENCODE has stepped to a running unit, it goes on. -/
theorem Encoding.encoding (henc : Encoding s n t) (h : step t = .next u) (hrun : u.phase = .run) :
    Encoding s n u where
  inv := stepKeepsInvariant t u henc.inv h
  run := hrun
  output := (stepKeepsOutputSoFar _ t u henc.inv henc.run henc.output h).1 hrun
  keeps := henc.keeps.step henc.inv henc.run h

/-- A running ENCODE ends after the micro-ops it has left. -/
theorem Encoding.runs_to_end {j : Nat} (henc : Encoding s n t) (hleft : microOpsLeft t = j) :
    ∃ u, runSteps j t = .next u ∧ Encoded s n u := by
  induction j generalizing t with
  | zero =>
    obtain ⟨v, hstep⟩ := henc.inv.exists_step henc.run henc.keeps.rst
    have hcount := henc.inv.microOpsLeft_step henc.run hstep
    omega
  | succ j ih =>
    obtain ⟨v, hstep⟩ := henc.inv.exists_step henc.run henc.keeps.rst
    have hcount := henc.inv.microOpsLeft_step henc.run hstep
    rw [runSteps, hstep]
    cases hphase : v.phase with
    | run => exact ih (henc.encoding hstep hphase) (by omega)
    | idle =>
      have hnone := microOpsLeft_of_idle hphase
      obtain rfl : j = 0 := by omega
      exact ⟨v, rfl, henc.encoded hstep hphase⟩

/-! ### The acceptance of an ENCODE -/

/-- An idle unit with an ENCODE word on its port executes the ENCODE. -/
theorem step_of_ready_encode (hready : ready s (encode (.encode n))) :
    step s = execEncode n (acceptCommand s) := by
  obtain ⟨hidle, hrst, hcmd⟩ := hready
  rw [step_of_command hidle hrst hcmd, decodeCommand_encode rfl rfl]
  rfl

/-- The step that accepts an ENCODE keeps what the ENCODE keeps. -/
theorem encodeKeeps_of_accept (hready : ready s (encode (.encode n)))
    (h : step s = .next u) (hbase : u.outBase = s.cmdBase) (hnreq : u.nreq = n) (hstatus : u.status = s.status)
    (hcmd : u.cmd = none) (hcount : u.freeCount = s.freeCount) : EncodeKeeps s n u := by
  obtain ⟨hidle, hrst, -⟩ := hready
  obtain ⟨hcfg, hrom, hname, hport⟩ := step_frame h hrst
  exact ⟨hbase, hnreq, hstatus, hname, hcfg, hrom, hcmd, hport, hcount, fun a _ => by
    simp only [unitAt, (step_of_idle hidle h).1]⟩

/-- The ENCODE of no unit has ended with the step that accepts it (R53). -/
theorem encoded_of_accept_zero (hinv : Inv s) (hready : ready s (encode (.encode 0)))
    (h : step s = .next (finishEncode (beginEncode (acceptCommand s) 0))) :
    Encoded s 0 (finishEncode (beginEncode (acceptCommand s) 0)) := by
  have hkeeps := encodeKeeps_of_accept hready h rfl rfl rfl rfl rfl
  have hnone : (0 : BitVec 60).toNat / s.cfg.frameBits = 0 := Nat.zero_div _
  refine ⟨?_, hkeeps, rfl, rfl⟩
  rw [hnone]
  exact .zero (stepKeepsInvariant _ _ hinv h) rfl hkeeps.rst rfl rfl rfl rfl rfl

/-- The ENCODE of some frames has begun with the step that accepts it, and has put out nothing yet (R53, R61). -/
theorem encoding_of_accept (hinv : Inv s) (hready : ready s (encode (.encode n)))
    (h : step s = .next (beginFrame { beginEncode (acceptCommand s) n with frm := 0 })) :
    Encoding s n (beginFrame { beginEncode (acceptCommand s) n with frm := 0 }) where
  inv := stepKeepsInvariant _ _ hinv h
  run := rfl
  output := {
    alfn := hinv.alfnValue_mod.symm
    buffer := fun hne => absurd rfl hne
    units := fun i _ hlt => absurd hlt (Nat.not_lt_zero i) }
  keeps := encodeKeeps_of_accept hready h rfl rfl rfl rfl rfl

/-- An ENCODE of whole frames runs to its end: one step accepts it, and 12 micro-ops a block follow (R53, R69). -/
theorem encode_runs_to_end (hinv : Inv s) (hready : ready s (encode (.encode n)))
    (hwhole : n.toNat % s.cfg.frameBits = 0) :
    ∃ t, runSteps (1 + 12 * (n.toNat / s.cfg.frameBits) * s.cfg.blocksPerFrame) s = .next t ∧ Encoded s n t := by
  have hstep := step_of_ready_encode hready
  have hone {u : State} (h : step s = .next u) : runSteps 1 s = .next u := by rw [runSteps, h]; rfl
  obtain ⟨hmod, -⟩ | ⟨rfl, he⟩ | ⟨-, -, he⟩ := execEncode_cases n (acceptCommand s)
  · exact absurd hwhole hmod
  · rw [he] at hstep
    have hnone : 1 + 12 * ((0 : BitVec 60).toNat / s.cfg.frameBits) * s.cfg.blocksPerFrame = 1 := by simp
    rw [hnone]
    exact ⟨_, hone hstep, encoded_of_accept_zero hinv hready hstep⟩
  · rw [he] at hstep
    rw [runSteps_add _ (hone hstep)]
    refine (encoding_of_accept hinv hready hstep).runs_to_end ?_
    rw [microOpsLeft_of_run rfl, Nat.mul_assoc]
    rfl

end

/-! ### Requests of `k` frames -/

/-- Only the ports differ while a command is presented. -/
theorem FramesWritten.of_presentCommand {s t : State} {w : Word64} {base b k : Nat}
    (h : FramesWritten (presentCommand s w b) base k t) : FramesWritten s base k t :=
  { h with }

/-- One ENCODE of `k` frames writes `k` frames. -/
theorem exists_framesWritten {s : State} {k : Nat} (base : Nat) (hinv : Inv s) (hidle : s.phase = .idle)
    (hrst : s.rst = none) (hfit : k * s.cfg.frameBits < 2 ^ 60) :
    ∃ t, runSteps (1 + 12 * k * s.cfg.blocksPerFrame)
        (presentCommand s (encode (.encode (BitVec.ofNat 60 (k * s.cfg.frameBits)))) base) = .next t ∧
      FramesWritten s base k t := by
  have hlen : (BitVec.ofNat 60 (k * s.cfg.frameBits)).toNat = k * s.cfg.frameBits :=
    (BitVec.toNat_ofNat _ _).trans (Nat.mod_eq_of_lt hfit)
  have hframes : (BitVec.ofNat 60 (k * s.cfg.frameBits)).toNat / s.cfg.frameBits = k := by
    rw [hlen, Nat.mul_div_cancel _ (Config.wellFormed.frameBits_pos hinv.config)]
  obtain ⟨t, hsteps, hend⟩ := encode_runs_to_end
    (s := presentCommand s (encode (.encode (BitVec.ofNat 60 (k * s.cfg.frameBits)))) base)
    { hinv with running := fun hrun => by simp [hidle] at hrun } ⟨hidle, hrst, rfl⟩
    (show (BitVec.ofNat 60 (k * s.cfg.frameBits)).toNat % s.cfg.frameBits = 0 by rw [hlen, Nat.mul_mod_left])
  have hwritten := hend.written.of_presentCommand
  simp only [presentCommand_cfg, presentCommand_cmdBase, hframes] at hsteps hwritten
  exact ⟨t, hsteps, hwritten⟩

/-- `k` ENCODEs of one frame each write `k` frames. -/
theorem exists_encodeFrameByFrame (k : Nat) : ∀ {s : State} (base : Nat), Inv s → s.phase = .idle →
    s.rst = none → ∃ u, encodeFrameByFrame base k s = some u ∧ FramesWritten s base k u := by
  induction k with
  | zero => exact fun _ hinv hidle hrst => ⟨_, rfl, .zero hinv hidle hrst rfl rfl rfl rfl rfl⟩
  | succ k ih =>
    intro s base hinv hidle hrst
    have hfit := Config.wellFormed.frameBits_lt hinv.config
    rw [← Nat.one_mul s.cfg.frameBits] at hfit
    obtain ⟨t, hsteps, hfirst⟩ := exists_framesWritten base hinv hidle hrst hfit
    obtain ⟨u, hrest, hothers⟩ := ih (base + 1 * s.cfg.frameBits) hfirst.inv hfirst.idle hfirst.rst
    rw [Nat.one_mul, Nat.mul_one] at hsteps
    rw [Nat.one_mul] at hrest
    refine ⟨u, ?_, by rw [Nat.add_comm k]; exact hfirst.trans hothers⟩
    simp only [encodeFrameByFrame, hsteps, hrest]

/-! ### The obligations -/

/-- Settles O55: a bad length is a step that faults, and every other ENCODE ends as `Encoded` says. -/
theorem encodeProducesRecord : Obligations.EncodeProducesRecord := by
  intro s n hinv hready
  change ready s (encode (.encode n)) at hready
  constructor
  · intro hbad
    refine step_of_stepRaises ((stepRaises_eq_some s 1).2 ?_)
    obtain ⟨hidle, hrst, hcmd⟩ := hready
    exact ⟨_, hidle, hrst, hcmd, by rw [decodeCommand_encode rfl rfl]; exact if_neg hbad⟩
  · intro hwhole
    obtain ⟨t, hsteps, hwritten, hkeeps, hpos, hrsp⟩ := encode_runs_to_end hinv hready hwhole
    refine ⟨t, hsteps, hwritten.idle, hrsp, hkeeps.outBase, hkeeps.nreq, hpos, hwritten.alfn, ?_, hwritten.units,
      hkeeps.others, hkeeps.status, hkeeps.name, hkeeps.cfg, hkeeps.rom, hkeeps.cmd, hkeeps.rst, hkeeps.freeCount⟩
    rw [Record.output_length, Nat.div_mul_cancel (Nat.dvd_of_mod_eq_zero hwhole)]

/-- Settles O56: both ways write the same frames. -/
theorem encodeComposes : Obligations.EncodeComposes := by
  intro s k base hinv hidle hrst hfit
  obtain ⟨t, hsteps, ht⟩ := exists_framesWritten base hinv hidle hrst hfit
  obtain ⟨u, hframes, hu⟩ := exists_encodeFrameByFrame k base hinv hidle hrst
  exact ⟨t, u, hsteps, hframes, ht.same hu⟩

/-- Settles O57: both units write the same record, and both counters end at the same value. -/
theorem outputDependsOnNameAlfnConfig : Obligations.OutputDependsOnNameAlfnConfig := by
  intro s₁ s₂ n hinv₁ hinv₂ hready₁ hready₂ hcfg hname halfn hwhole
  obtain ⟨t₁, hsteps₁, h₁⟩ := encode_runs_to_end hinv₁ hready₁ hwhole
  obtain ⟨t₂, hsteps₂, h₂⟩ := encode_runs_to_end hinv₂ hready₂ (hcfg ▸ hwhole)
  have hvalue : alfnValue s₂ = alfnValue s₁ := by simp only [alfnValue, hcfg, halfn]
  have hunits₂ := h₂.written.units
  have halfn₂ := h₂.written.alfn
  rw [← hcfg] at hsteps₂ hunits₂ halfn₂
  rw [← hname, hvalue] at hunits₂
  rw [hvalue] at halfn₂
  refine ⟨t₁, t₂, hsteps₁, hsteps₂, h₁.written.idle, h₂.written.idle, BitVec.eq_of_toNat_eq ?_,
    h₁.rsp.trans h₂.rsp.symm, fun i hi => ?_⟩
  · rw [← h₁.written.inv.alfnValue_toNat, ← h₂.written.inv.alfnValue_toNat, h₁.written.alfn, halfn₂]
  · have hlen := Record.output_length s₁.cfg s₁.name (alfnValue s₁).toNat (n.toNat / s₁.cfg.frameBits)
    rw [Nat.div_mul_cancel (Nat.dvd_of_mod_eq_zero hwhole)] at hlen
    have hbit := List.getElem?_eq_getElem (hlen ▸ hi)
    rw [h₁.written.units i _ hbit, hunits₂ i _ hbit]
    exact ⟨rfl, nofun⟩

end Sys2Proof.Machine
end

section
/-! PROOFS of the family 40_host_commands.md, part 2: the single host commands (R53 to R59). -/

namespace Sys2Proof.Machine

/-! ### Responses -/

/-- A counter word has the low `W_ALFN` bits of its value and no other (R18). -/
theorem getLsbD_alfnWord (c : Config) (v : Word64) (j : Nat) :
    (c.alfnWord v.toNat).getLsbD j = (decide (j < c.wAlfn) && v.getLsbD j) := by
  rw [Config.alfnWord, BitVec.getLsbD_ofNat, Nat.testBit_mod_two_pow, BitVec.testBit_toNat]
  by_cases hj : j < 64
  · rw [decide_eq_true hj, Bool.true_and]
  · rw [BitVec.getLsbD_of_ge v j (Nat.not_lt.1 hj), Bool.and_false, Bool.and_false]

/-- The bits of STATUS that exist are FAULT and the four of FAULT_CODE (R19). -/
theorem getLsbD_statusMask (j : Nat) : statusMask.getLsbD j = (j == 0 || (4 ≤ j && j ≤ 7)) := by
  by_cases hj : j < 8
  · interval_cases j <;> rfl
  · have hhigh : statusMask.getLsbD j = false :=
      Nat.testBit_eq_false_of_lt ((by decide : statusMask.toNat < 2 ^ 8).trans_le
        (Nat.pow_le_pow_right (by decide) (Nat.not_lt.1 hj)))
    rw [hhigh]
    simp only [Bool.false_eq, Bool.or_eq_false_iff, beq_eq_false_iff_ne, Bool.and_eq_false_iff, decide_eq_false_iff_not]
    omega

/-- STATUS reads 0 after reset (R57). -/
theorem statusWord_construct (s : State) (p : RstInputs) : statusWord (construct s p) = 0 := by
  rw [statusWord, construct_status]
  exact BitVec.zero_and

/-- STATUS after a first fault of a code, as it reads (R57). -/
theorem recordFault_zero_and_mask (c : BitVec 4) :
    recordFault 0 c &&& statusMask = (c.setWidth 64 <<< 4) ||| 1 := by
  revert c
  decide

/-- A second fault changes nothing (R84). -/
theorem raiseFault_raiseFault (s : State) (c d : BitVec 4) : raiseFault (raiseFault s c) d = raiseFault s c := by
  have hstatus : recordFault (recordFault s.status c) d = recordFault s.status c :=
    if_pos (faultFlag_recordFault s.status c)
  simp only [raiseFault, respond, hstatus]

/-- FRAME_BITS of a well-formed configuration fits its register (R20). -/
theorem frameBitsReg_toNat {s : State} (hwf : s.cfg.wellFormed = true) : (frameBitsReg s).toNat = s.cfg.frameBits := by
  have hlt := Config.wellFormed.frameBits_lt hwf
  rw [frameBitsReg, BitVec.toNat_ofNat, Nat.mod_eq_of_lt (by omega)]

/-! ### Words that raise ILLEGAL_COMMAND -/

/-- A word with OP 0x5 to 0xF raises ILLEGAL_COMMAND, whichever of the three reserved rows it is of (R59). -/
theorem raises_of_reserved (c : Config) {w : Word64} (h : 5 ≤ (opField w).toNat) :
    raises c (decodeCommand w) = some illegalCommand := by
  unfold decodeCommand
  split
  case h_6 | h_7 | h_8 | h_9 => rfl
  all_goals omega

/-! ### The obligations -/

/-- Settles O10. -/
theorem nopRespondsZero : Obligations.NopRespondsZero :=
  ⟨rfl, fun arg harg => decodeCommand_encode (i := .illegalNopArg arg) rfl (bne_iff_ne.2 harg), fun _ =>
    ⟨rfl, fun arg => exec_of_raises (i := .illegalNopArg arg) (code := illegalCommand) rfl⟩⟩

/-- Settles O11: the response is the counter word, bit by bit. -/
theorem readAlfnRespondsCounter : Obligations.ReadAlfnRespondsCounter := by
  refine ⟨rfl, fun arg harg => decodeCommand_encode (i := .illegalReadAlfnArg arg) rfl (bne_iff_ne.2 harg), fun s =>
    ⟨⟨alfnValue s, rfl, fun j hj => ?_, fun j hj => ?_⟩, fun arg =>
      exec_of_raises (i := .illegalReadAlfnArg arg) (code := illegalCommand) rfl⟩⟩
  · rw [alfnValue, getLsbD_alfnWord, decide_eq_true hj, Bool.true_and]
  · rw [alfnValue, getLsbD_alfnWord, decide_eq_false (Nat.not_lt.2 hj), Bool.false_and]

/-- Settles O12: the response is STATUS under its mask. -/
theorem readStatusRespondsStatus : Obligations.ReadStatusRespondsStatus := by
  refine ⟨rfl, fun arg harg => decodeCommand_encode (i := .illegalReadStatusArg arg) rfl (bne_iff_ne.2 harg), fun s =>
    ⟨⟨statusWord s, rfl, fun j => ?_⟩, fun p => ?_, fun hclear c d => ?_, fun arg =>
      exec_of_raises (i := .illegalReadStatusArg arg) (code := illegalCommand) rfl⟩⟩
  · rw [statusWord, BitVec.getLsbD_and, getLsbD_statusMask]
  · rw [← statusWord_construct s p]
    rfl
  · have hfirst : exec .readStatus (raiseFault s c) =
        .next { raiseFault s c with rsp := some ((c.setWidth 64 <<< 4) ||| 1) } := by
      rw [← recordFault_zero_and_mask, ← hclear]
      rfl
    exact ⟨hfirst, by rw [raiseFault_raiseFault, hfirst]⟩

/-- Settles O13: the value is FRAME_BITS written out. -/
theorem readFrameBitsRespondsWidth : Obligations.ReadFrameBitsRespondsWidth := by
  refine ⟨rfl, fun arg harg => decodeCommand_encode (i := .illegalReadFrameBitsArg arg) rfl (bne_iff_ne.2 harg),
    fun s => ⟨⟨frameBitsReg s, rfl, fun hwf => ?_⟩, fun arg =>
      exec_of_raises (i := .illegalReadFrameBitsArg arg) (code := illegalCommand) rfl⟩⟩
  rw [frameBitsReg_toNat hwf, Config.frameBits_eq, Config.blockBits_eq, Config.payloadBits_eq]

/-- Settles O14: a word by its opcode, a row by its entry in the table of faults. -/
theorem reservedCommandsFault : Obligations.ReservedCommandsFault :=
  ⟨fun op arg s hop => exec_of_raises (raises_of_reserved s.cfg (by rwa [opField_append])), fun s =>
    ⟨fun arg => exec_of_raises (i := .reservedCmd5 arg) (code := illegalCommand) rfl,
      fun rest => exec_of_raises (i := .reservedCmd6to7 rest) (code := illegalCommand) rfl,
      fun rest => exec_of_raises (i := .reservedCmd8toF rest) (code := illegalCommand) rfl⟩⟩

/-- Settles O17: a request of a whole frame or more passes the length check and is not empty. -/
theorem encodeBeginsRun : Obligations.EncodeBeginsRun := by
  intro s n hwhole hsome
  obtain ⟨hmod, -⟩ | ⟨rfl, -⟩ | ⟨-, -, he⟩ := execEncode_cases n s
  · exact absurd hwhole hmod
  · exact absurd (Nat.zero_div _) hsome.ne'
  · exact he

/-- Settles O18: the request of no unit passes the length check, and a length that does not is a fault. -/
theorem encodeOfNoFrameEndsOrFaults : Obligations.EncodeOfNoFrameEndsOrFaults := by
  intro s n
  constructor
  · rintro rfl
    obtain ⟨hmod, -⟩ | ⟨-, he⟩ | ⟨-, hsome, -⟩ := execEncode_cases 0 s
    · exact absurd (Nat.zero_mod _) hmod
    · exact ⟨_, he, rfl⟩
    · exact absurd (Nat.zero_div _) hsome.ne'
  · exact fun hbad => exec_of_raises (i := .encode n) (if_neg hbad)

end Sys2Proof.Machine
end

section
/-! PROOFS of the family 41_frame_sequencer.md, part 1: the words of the ROM (R60), and the micro-ops BSTART, ALFNSL
and BEND (R61 to R64). -/

namespace Sys2Proof

open Machine

/-! ### The words of the ROM -/

/-- A word that ends in a 32-bit IMM is the OR of its upper half and the value of that IMM (R48, R60). -/
theorem append_ofNat_eq_or (hi : BitVec 32) (v : Nat) (hv : v < 2 ^ 32) :
    hi ++ BitVec.ofNat 32 v = (hi ++ 0#32) ||| BitVec.ofNat 64 v := by
  have himm : (BitVec.ofNat 32 v).setWidth 64 = BitVec.ofNat 64 v := by
    rw [BitVec.setWidth_ofNat_of_le_of_lt (by decide) hv]
  rw [← himm, BitVec.append_def, BitVec.append_def, BitVec.setWidth'_eq, BitVec.setWidth'_eq, BitVec.setWidth_zero,
    BitVec.or_zero]

/-- An EMIT of a value that fits its width has the fields R49 requires. -/
theorem wellFormed_emit_ofNat {w : BitVec 6} {v : Nat} (hw : 1 ≤ w.toNat) (hle : w.toNat ≤ 32)
    (hv : v < 2 ^ w.toNat) : (Instr.emit w (BitVec.ofNat 32 v)).wellFormed = true := by
  have himm : v % 2 ^ 32 < 2 ^ w.toNat := (Nat.mod_le _ _).trans_lt hv
  simp only [Instr.wellFormed, Instr.encodable, Instr.romFields, BitVec.toNat_ofNat, hw, hle, himm, decide_true,
    Bool.and_true]

/-- Every statement of R60 has the fields R49 requires, for parameters in the domains of R8. -/
theorem Config.wellFormed.microStatements {c : Config} (h : c.wellFormed = true) :
    ∀ k : Fin 12, c.microStatements[k.val].wellFormed = true := by
  obtain ⟨hpids, hext, htype, hfm, htime, -⟩ := c.wellFormed_iff.1 h
  intro k
  match k with
  | 0 | 4 | 6 | 9 | 10 | 11 => rfl
  | 1 => exact wellFormed_emit_ofNat (w := 1) (by decide) (by decide) (Nat.lt_succ_of_le hpids)
  | 2 => exact wellFormed_emit_ofNat (w := 1) (by decide) (by decide) (Nat.lt_succ_of_le hext)
  | 3 => exact wellFormed_emit_ofNat (w := 32) (by decide) (by decide) (Nat.lt_succ_of_le htype)
  | 5 => exact wellFormed_emit_ofNat (w := 2) (by decide) (by decide) (Nat.lt_succ_of_le hfm)
  | 7 => exact wellFormed_emit_ofNat (w := 1) (by decide) (by decide) (by decide)
  | 8 => exact wellFormed_emit_ofNat (w := 1) (by decide) (by decide) (Nat.lt_succ_of_le htime)

/-- BSTART stands only at the start of the micro-program. -/
theorem Config.eq_zero_of_microStatements_eq_bstart (c : Config) :
    ∀ {k : Nat} (h : k < 12), c.microStatements[k] = .bstart → k = 0
  | 0, _, _ => rfl
  | 1, _, h | 2, _, h | 3, _, h | 4, _, h | 5, _, h | 6, _, h | 7, _, h | 8, _, h | 9, _, h | 10, _, h | 11, _, h =>
    nomatch h

/-- The words of the ROM as R60 writes them: an operand stands at the end of its word, the other words are
constants. -/
theorem Config.wellFormed.microProgram_eq {c : Config} (h : c.wellFormed = true) :
    c.microProgram = #v[0x0000000000000000, 0x1040000000000000 ||| BitVec.ofNat 64 c.pidsFormatted,
      0x1040000000000000 ||| BitVec.ofNat 64 c.noExtension, 0x1800000000000000 ||| BitVec.ofNat 64 c.stationNameLong,
      0x2000000000000000, 0x1080000000000000 ||| BitVec.ofNat 64 c.extensionFm,
      0x3000000000000000 ||| BitVec.ofNat 64 c.padMin, 0x1040000000000000,
      0x1040000000000000 ||| BitVec.ofNat 64 c.timeNotLocked, 0x4000000000000000, 0x5000000000000000,
      0x6000000000000000] := by
  obtain ⟨hpids, hext, htype, hfm, htime, hpad, -⟩ := c.wellFormed_iff.1 h
  refine Vector.ext fun k hk => ?_
  rw [Config.microProgram, Vector.getElem_map]
  match k, hk with
  | 0, _ | 4, _ | 7, _ | 9, _ | 10, _ | 11, _ => rfl
  | 1, _ => exact append_ofNat_eq_or 0x10400000#32 c.pidsFormatted (by omega)
  | 2, _ => exact append_ofNat_eq_or 0x10400000#32 c.noExtension (by omega)
  | 3, _ => exact append_ofNat_eq_or 0x18000000#32 c.stationNameLong (by omega)
  | 5, _ => exact append_ofNat_eq_or 0x10800000#32 c.extensionFm (by omega)
  | 6, _ => exact append_ofNat_eq_or 0x30000000#32 c.padMin (by omega)
  | 8, _ => exact append_ofNat_eq_or 0x10400000#32 c.timeNotLocked (by omega)

/-- Settles O35. -/
theorem romHoldsMicroProgram : Obligations.RomHoldsMicroProgram := fun c hwf =>
  ⟨Config.wellFormed.microProgram_eq hwf, fun k =>
    ⟨c.decodeMicro_microProgram k.val k.isLt, Config.wellFormed.microStatements hwf k⟩⟩

end Sys2Proof

namespace Sys2Proof.Machine

/-! ### The micro-ops -/

/-- A running step executes the micro-op that the word under UPC decodes to (R61). -/
theorem step_of_fetch {s : State} {w : Word64} {i : Instr} (hrun : s.phase = .run) (hrst : s.rst = none)
    (hfetch : fetchMicro s = some w) (hdecode : decodeMicro w = .ok i) : step s = exec i s := by
  simp only [step_of_run hrun hrst, stepMicro, hfetch, hdecode]

/-- Settles O8: with UPC below 12 the fetch finds the word. -/
theorem stepRunsTheMicroOp : Obligations.StepRunsTheMicroOp :=
  fun s hupc _ hrun hrst hdecode => step_of_fetch hrun hrst (fetchMicro_of_lt s hupc) hdecode

/-- Where the ROM of a unit has BSTART under UPC, a block starts. -/
theorem Inv.upc_eq_zero_of_bstart {s : State} (hinv : Inv s)
    (hdecode : decodeMicro (s.rom[s.upc.toNat]'hinv.upc) = .ok .bstart) : s.upc.toNat = 0 := by
  have hrom : s.rom[s.upc.toNat]'hinv.upc = s.cfg.microProgram[s.upc.toNat]'hinv.upc := by rw [hinv.rom]
  rw [hrom, s.cfg.decodeMicro_microProgram _ hinv.upc] at hdecode
  exact s.cfg.eq_zero_of_microStatements_eq_bstart hinv.upc (Except.ok.inj hdecode)

/-- Settles O20: at UPC 0 the cursor stands at the start of the block. -/
theorem bstartEmptiesBuffer : Obligations.BstartEmptiesBuffer := by
  refine ⟨rfl, fun _ => rfl, fun s hinv hrun hdecode => ?_⟩
  rw [Vector.getElem?_eq_getElem hinv.upc, Option.getD_some] at hdecode
  rw [(hinv.running hrun).cursor, hinv.upc_eq_zero_of_bstart hdecode]
  rfl

/-- ALFN as it reads is the counter modulo `2^W_ALFN`, whatever W_ALFN is: the register has 64 bits. -/
theorem alfnValue_toNat (s : State) : (alfnValue s).toNat = s.alfn.toNat % 2 ^ s.cfg.wAlfn :=
  (BitVec.toNat_ofNat _ _).trans (Nat.mod_eq_of_lt ((Nat.mod_le _ _).trans_lt s.alfn.isLt))

/-- A bit of ALFN as it reads: the register's below W_ALFN, 0 above (R12, R18). -/
theorem testBit_alfnValue (s : State) (j : Nat) :
    (alfnValue s).toNat.testBit j = (decide (j < s.cfg.wAlfn) && s.alfn.getLsbD j) :=
  getLsbD_alfnWord s.cfg s.alfn j

/-- The slice of block `b` is the base-4 digit `b` of the counter (R63, R67). -/
theorem alfnSlice_eq_digit (alfn b : Nat) : alfnSlice alfn b = alfn / 2 ^ (2 * b) % 4 := by
  rw [← Nat.shiftRight_eq_div_pow]
  exact Nat.and_two_pow_sub_one_eq_mod _ 2

/-- The slice of block `b` is the number of its two bits (R63). -/
theorem alfnSlice_eq_bits (alfn b : Nat) :
    alfnSlice alfn b = 2 * (alfn.testBit (2 * b + 1)).toNat + (alfn.testBit (2 * b)).toNat := by
  rw [alfnSlice_eq_digit, Nat.toNat_testBit, Nat.toNat_testBit, Nat.pow_succ, ← Nat.div_div_eq_div_mul]
  omega

/-- Settles O24: the micro-op emits the two bits of the slice of ALFN as it reads, of which those at or above W_ALFN
are 0. -/
theorem alfnslEmitsSlice : Obligations.AlfnslEmitsSlice := by
  refine ⟨rfl, fun s hpos => ⟨_, _, _, exec_alfnsl s, emitted_advance s _ hpos, by simp, ?_, fun hge => ?_,
    fun hlast => ?_⟩⟩
  · rw [← alfnSlice_eq_bits, alfnValue_toNat]
    rfl
  · rw [testBit_alfnValue, testBit_alfnValue, decide_eq_false (by omega), decide_eq_false (by omega)]
    exact ⟨rfl, rfl⟩
  · rw [testBit_alfnValue, testBit_alfnValue, decide_eq_false (by omega), decide_eq_true (by omega), ← hlast]
    exact ⟨rfl, rfl⟩

/-- Settles O26: BEND ends its block, or its frame, after which ENCODE's frame loop goes on or ends. -/
theorem bendEndsBlockOrFrame : Obligations.BendEndsBlockOrFrame := by
  refine ⟨rfl, fun s => ?_⟩
  obtain ⟨hblk, he⟩ | ⟨hblk, he⟩ := execBend_cases s
  · exact ⟨fun _ => he, fun hlast => absurd hlast hblk, fun hlast => absurd hlast hblk⟩
  · obtain ⟨hmore, hnext⟩ | ⟨hend, hnext⟩ := nextFrame_cases { stepAlfn s with blk := 0 } <;> rw [hnext] at he
    · exact ⟨fun hother => absurd hblk hother, fun _ _ => he, fun _ hend => absurd hmore (Nat.not_lt.2 hend)⟩
    · exact ⟨fun hother => absurd hblk hother, fun _ hmore => absurd hmore (Nat.not_lt.2 hend), fun _ _ =>
        ⟨_, he, rfl⟩⟩

end Sys2Proof.Machine
end

section
/-! PROOFS of the family 41_frame_sequencer.md, part 2: where ALFN changes (R65), and what its slices carry (R67). -/

namespace Sys2Proof.Machine

/-! ### The step of ALFN -/

@[simp] theorem nextFrame_alfn (s : State) : (nextFrame s).alfn = s.alfn := by
  unfold nextFrame
  split <;> rfl

/-- An instruction that changes ALFN is BEND of the last block. -/
theorem Effect.alfn_cases {i : Instr} {s t : State} (h : Effect s i t) :
    t.alfn = s.alfn ∨ i = .bend ∧ s.blk.toNat = s.cfg.blocksPerFrame - 1 := by
  cases h with
  | endsFrame hi hblk => exact .inr ⟨hi, hblk⟩
  | _ => exact .inl (by simp)

/-- Settles O43: no command is BEND, and BEND of the last block steps the counter. -/
theorem alfnChangesOnlyAtFrameEnd : Obligations.AlfnChangesOnlyAtFrameEnd := by
  intro s t h hrst
  constructor
  · intro hne
    obtain ⟨p, -, hr, -⟩ | ⟨-, -, -, rfl⟩ | ⟨w, -, -, -, he⟩ | ⟨w, i, hrun, -, hfetch, hdecode, he⟩ := step_eq_next h
    · simp [hrst] at hr
    · exact absurd rfl hne
    · obtain hsame | ⟨hbend, -⟩ := he.alfn_cases
      · exact absurd hsame hne
      · have hcmd := format_decodeCommand w
        rw [hbend] at hcmd
        cases hcmd
    · obtain hsame | ⟨rfl, hblk⟩ := he.alfn_cases
      · exact absurd hsame hne
      · exact ⟨hrun, hblk, w, hfetch, hdecode⟩
  · rintro hrun hblk ⟨w, hfetch, hdecode⟩
    have hstep : step s = execBend s := step_of_fetch hrun hrst hfetch hdecode
    obtain ⟨hother, -⟩ | ⟨-, he⟩ := execBend_cases s
    · exact absurd hblk hother
    · rw [hstep, he] at h
      cases h
      exact nextFrame_alfn _

end Sys2Proof.Machine

namespace Sys2Proof

open Machine

/-! ### The slices of a frame -/

/-- The two bits at offset PAYLOAD_BITS + 2 of a block are the field of ALFNSL (R43). -/
theorem Record.block_slice (c : Config) (name : Vector Byte 32) (alfn b : Nat) :
    ((Record.block c name alfn b).drop (c.payloadBits + 2)).take 2 = fieldBits (alfnSlice alfn b) 2 := by
  have hlen : (Record.upTo c name alfn b 9).length = c.payloadBits + 2 := Record.upTo_length c name alfn b 9
  have hblock : Record.block c name alfn b = Record.upTo c name alfn b 9 ++
      (fieldBits (alfnSlice alfn b) 2 ++ fieldBits (crc12 (Record.upTo c name alfn b 10)).toNat wCrc) := by
    rw [fieldBits_alfnSlice, ← List.append_assoc, ← Record.upTo_bend]
    rfl
  rw [hblock, List.drop_left' hlen, List.take_left' (fieldBits_length _ 2)]

/-- The slices of the blocks below `n` are the low `2n` bits of the counter. -/
theorem Receiver.joinSlices_alfnSlice (alfn n : Nat) :
    Receiver.joinSlices (alfnSlice alfn) n = alfn % 2 ^ (2 * n) := by
  induction n with
  | zero => exact (Nat.mod_one alfn).symm
  | succ n ih =>
    have hpow : (4 : Nat) ^ n = 2 ^ (2 * n) := (Nat.pow_mul 2 2 n).symm
    calc Receiver.joinSlices (alfnSlice alfn) (n + 1)
      _ = alfn % 2 ^ (2 * n) + 2 ^ (2 * n) * (alfn / 2 ^ (2 * n) % 4) := by
        rw [Receiver.joinSlices, ih, alfnSlice_eq_digit, hpow, Nat.add_comm, Nat.mul_comm (2 ^ (2 * n))]
      _ = alfn % (2 ^ (2 * n) * 4) := Nat.mod_mul.symm
      _ = alfn % 2 ^ (2 * (n + 1)) := by rw [Nat.mul_succ 2 n, Nat.pow_add]

/-- Settles O59: a counter of `w` bits is its own remainder modulo `2^(2n)` where `2n` is at least `w`. -/
theorem slicesReconstructAlfn : Obligations.SlicesReconstructAlfn :=
  ⟨Record.block_slice, Receiver.joinSlices_alfnSlice, fun a _ n hlt hle =>
    (Receiver.joinSlices_alfnSlice a n).trans (Nat.mod_eq_of_lt (hlt.trans_le (Nat.pow_le_pow_right (by decide) hle)))⟩

end Sys2Proof
end

section
/-! PROOFS of the family 41_frame_sequencer.md, part 3: how many micro-ops an ENCODE executes (R69). -/

namespace Sys2Proof.Machine

section
variable {s t : State} {n : BitVec 60}

/-- Under the invariant an ENCODE runs exactly as long as it has micro-ops left. -/
theorem Inv.run_iff_microOpsLeft_pos (hinv : Inv t) : t.phase = .run ↔ 0 < microOpsLeft t := by
  cases hphase : t.phase with
  | idle => simp [microOpsLeft_of_idle hphase]
  | run =>
    have hblk := hinv.blk
    have hupc := hinv.upc
    rw [microOpsLeft_of_run hphase, (hinv.running hphase).blocksLeft_eq]
    exact iff_of_true rfl (by omega)

/-- A run of no more steps than there are micro-ops left executes as many of them. -/
theorem Inv.exists_runSteps (hinv : Inv t) (hrst : t.rst = none) {j : Nat} (hj : j ≤ microOpsLeft t) :
    ∃ u, runSteps j t = .next u ∧ Inv u ∧ u.rst = none ∧ microOpsLeft t = microOpsLeft u + j := by
  induction j with
  | zero => exact ⟨t, rfl, hinv, hrst, rfl⟩
  | succ j ih =>
    obtain ⟨u, hsteps, hinvu, hrstu, hleft⟩ := ih (Nat.le_of_succ_le hj)
    have hrun : u.phase = .run := hinvu.run_iff_microOpsLeft_pos.2 (by omega)
    obtain ⟨v, hstep⟩ := hinvu.exists_step hrun hrstu
    obtain ⟨-, -, -, hrstv⟩ := step_frame hstep hrstu
    refine ⟨v, runSteps_succ_of_next hsteps hstep, stepKeepsInvariant u v hinvu hstep, hrstv, ?_⟩
    rw [hleft, hinvu.microOpsLeft_step hrun hstep]
    omega

/-- The step that accepts an ENCODE of whole frames leaves 12 micro-ops a block to execute (R53, R69). -/
theorem exists_step_of_accept (hready : ready s (encode (.encode n))) (hwhole : n.toNat % s.cfg.frameBits = 0) :
    ∃ t, step s = .next t ∧ microOpsLeft t = 12 * (n.toNat / s.cfg.frameBits) * s.cfg.blocksPerFrame := by
  rw [step_of_ready_encode hready, Nat.mul_assoc]
  obtain ⟨hmod, -⟩ | ⟨rfl, he⟩ | ⟨-, -, he⟩ := execEncode_cases n (acceptCommand s)
  · exact absurd hwhole hmod
  · exact ⟨_, he, by rw [microOpsLeft_of_idle rfl]; simp⟩
  · exact ⟨_, he, microOpsLeft_of_run rfl⟩

end

/-- Settles O52: each step after the acceptance is one of the micro-ops left, and the ENCODE runs while some are. -/
theorem encodeRunsCountedMicroOps : Obligations.EncodeRunsCountedMicroOps := by
  intro s n hinv hready hwhole j hj
  obtain ⟨t, hstep, hleft⟩ := exists_step_of_accept hready hwhole
  obtain ⟨-, hport, -⟩ := hready
  obtain ⟨-, -, -, hrst⟩ := step_frame hstep hport
  rw [← hleft] at hj ⊢
  obtain ⟨u, hsteps, hinvu, -, hcount⟩ := (stepKeepsInvariant s t hinv hstep).exists_runSteps hrst hj
  have haccept : runSteps 1 s = .next t := by rw [runSteps, hstep]; rfl
  refine ⟨u, (runSteps_add j haccept).trans hsteps, ?_⟩
  rw [hinvu.run_iff_microOpsLeft_pos]
  omega

end Sys2Proof.Machine
end

section
/-! PROOFS of the family 42_bit_writer.md: EmitBit (R70), EMIT (R71) and PADTO (R72). -/

namespace Sys2Proof

open Machine

/-! ### The words of EMIT and PADTO -/

/-- A word that ends in a 32-bit IMM is the OR of its upper half and that IMM (R48). -/
theorem append_imm_eq_or (hi imm : BitVec 32) : hi ++ imm = (hi ++ 0#32) ||| imm.setWidth 64 := by
  have h := append_ofNat_eq_or hi imm.toNat imm.isLt
  rwa [BitVec.ofNat_toNat, BitVec.ofNat_toNat, BitVec.setWidth_eq] at h

/-- The upper half of EMIT's word: the opcode 1 and W, each at its place (R48). -/
theorem emitWord_upper (w : BitVec 6) :
    0x1#4 ++ w ++ 0#22 ++ 0#32 = (0x1#64 <<< 60) ||| (w.setWidth 64 <<< 54) := by
  revert w
  decide

/-! ### The EMITs of the ROM -/

/-- The EMITs of the micro-program are of a flag, of the FM extension tag or of the type tag (R60). -/
theorem Config.width_of_microStatements_eq_emit (c : Config) {w : BitVec 6} {imm : BitVec 32} :
    ∀ {k : Nat} (h : k < 12), c.microStatements[k] = .emit w imm → w = 1 ∨ w = 2 ∨ w = 32
  | 1, _, h | 2, _, h | 7, _, h | 8, _, h => .inl (Instr.emit.inj h).1.symm
  | 5, _, h => .inr (.inl (Instr.emit.inj h).1.symm)
  | 3, _, h => .inr (.inr (Instr.emit.inj h).1.symm)
  | 0, _, h | 4, _, h | 6, _, h | 9, _, h | 10, _, h | 11, _, h => nomatch h

/-- An EMIT with the fields R49 requires has no bit of IMM at or above W. -/
theorem imm_lt_of_wellFormed_emit {w : BitVec 6} {imm : BitVec 32} (h : (Instr.emit w imm).wellFormed = true) :
    imm.toNat < 2 ^ w.toNat := by
  simp only [Instr.wellFormed, Instr.romFields, Bool.and_eq_true, decide_eq_true_eq] at h
  obtain ⟨-, -, hlt⟩ := h
  exact hlt

end Sys2Proof

namespace Sys2Proof.Machine

/-! ### The bits EMIT and PADTO emit -/

/-- Bit `i` that EMIT emits is bit `W − 1 − i` of IMM, zero-extended to 64 bits (R12, R71). -/
theorem fieldBits_imm_getElem? (imm : BitVec 32) {w i : Nat} (h : i < w) :
    (fieldBits imm.toNat w)[i]? = some ((imm.setWidth 64).getLsbD (w - 1 - i)) := by
  have hzext : (imm.setWidth 64).toNat = imm.toNat := BitVec.toNat_setWidth_of_le (by decide)
  rw [fieldBits_getElem? _ h, BitVec.getLsbD, hzext]

@[simp] theorem paddingBits_length (imm : BitVec 32) (blen : Nat) :
    (paddingBits imm blen).length = imm.toNat - blen :=
  List.length_replicate

/-! ### Where a running step may emit -/

@[simp] theorem nextFrame_bb (s : State) : (nextFrame s).bb = s.bb := by
  unfold nextFrame
  split <;> rfl

/-- The block buffer grows by no more than the field of the micro-op: BSTART has emptied it, or it was kept. -/
theorem afterEmit_bb_length_le (s : State) (k : Nat) :
    (afterEmit s k).bb.length ≤
      s.bb.length + (blockField s.cfg s.name (alfnValue s).toNat s.blk.toNat s.bb k).length := by
  rw [afterEmit_bb, List.length_append]
  split
  · exact Nat.add_le_add_right (Nat.zero_le _) _
  · exact le_rfl

/-! ### The obligations -/

/-- Settles O21. -/
theorem emitSerialisesMsbFirst : Obligations.EmitSerialisesMsbFirst := by
  refine ⟨fun w imm => ?_, fun s w imm hpos => ?_, fun c w imm hwf hmem => ?_⟩
  · rw [← emitWord_upper w]
    exact append_imm_eq_or (0x1#4 ++ w ++ 0#22) imm
  · have hlen : (fieldBits imm.toNat w.toNat).length = w.toNat := fieldBits_length _ _
    exact ⟨_, fieldBits imm.toNat w.toNat, rfl, emitted_advance s _ (by rwa [hlen]), hlen,
      fun i hi => fieldBits_imm_getElem? imm hi⟩
  · obtain ⟨k, hk, he⟩ := Vector.getElem_of_mem (Vector.mem_toList_iff.1 hmem)
    have hstatement := Config.wellFormed.microStatements hwf ⟨k, hk⟩
    exact ⟨c.width_of_microStatements_eq_emit hk he, imm_lt_of_wellFormed_emit (he ▸ hstatement)⟩

/-- Settles O23: as many zeros are emitted as the block lacks; at UPC 6 the head of the block is in the buffer. -/
theorem padtoPadsToWidth : Obligations.PadtoPadsToWidth := by
  refine ⟨fun imm => append_imm_eq_or 0x30000000#32 imm, fun s imm hpos => ?_, fun s hinv hrun hupc => ?_⟩
  · refine ⟨_, paddingBits imm s.bb.length, rfl, emitted_advance s _ (by rwa [paddingBits_length]),
      fun x hx => List.eq_of_mem_replicate hx, fun hle => ?_, fun hge => ?_⟩
    · rw [advance_bb, emitBits_bb, List.length_append, paddingBits_length, Nat.add_sub_cancel' hle]
    · rw [← List.length_eq_zero_iff, paddingBits_length, Nat.sub_eq_zero_of_le hge]
  · rw [(hinv.running hrun).buffer (by rw [hupc]; decide), hupc, ← headBits_eq]
    rfl

/-- Settles O19: the first part is the write of one unit; in a running step only the micro-ops that emit grow the
block buffer, by what they move the cursor. -/
theorem emitBitWritesOneUnit : Obligations.EmitBitWritesOneUnit := by
  refine ⟨fun s x => ⟨?_, fun a ha => Memory.read_write_other _ _ ha, rfl⟩, fun s t hinv hrun h => ?_⟩
  · have hunit : unitOf x = if x then 1 else 0 := by cases x <;> rfl
    rw [← hunit]
    exact Memory.read_write_same _ _ _
  · obtain ⟨-, rfl⟩ | ⟨-, -, rfl⟩ | ⟨-, -, rfl⟩ := hinv.step_running_cases hrun h
    · obtain ⟨hcursor, hle⟩ := hinv.pos_add_field (hinv.running hrun)
      have hgrow := afterEmit_bb_length_le s s.upc.toNat
      exact .inr (by omega)
    · exact .inl le_rfl
    · exact .inl (by rw [nextFrame_bb, stepAlfn_bb])

end Sys2Proof.Machine
end

section
/-! PROOFS of the family 43_name_codec.md: the alphabet and CHARMAP (R73, R74), the receiver's DECODE (R78), and NAME
(R75). -/

namespace Sys2Proof

open Machine

/-! ### The rows of CHARMAP's table -/

section alphabet
variable {ch : Byte}

/-- The alphabet, row by row: the letters of either case and four signs (R73). -/
theorem Receiver.inAlphabet_iff : Receiver.inAlphabet ch = true ↔
    (0x41 ≤ ch.toNat ∧ ch.toNat ≤ 0x5A) ∨ (0x61 ≤ ch.toNat ∧ ch.toNat ≤ 0x7A) ∨
      ch = 0x3F ∨ ch = 0x2D ∨ ch = 0x2A ∨ ch = 0x24 := by
  simp only [Receiver.inAlphabet, Bool.or_eq_true, Bool.and_eq_true, decide_eq_true_eq, beq_iff_eq, or_assoc]

theorem charMap_toNat_of_upper (h : 0x41 ≤ ch.toNat ∧ ch.toNat ≤ 0x5A) : (charMap ch).toNat = ch.toNat - 0x41 := by
  have hrow : charMap ch = BitVec.ofNat 5 (ch.toNat - 0x41) := if_pos h
  rw [hrow, BitVec.toNat_ofNat, Nat.mod_eq_of_lt (by omega)]

theorem charMap_toNat_of_lower (h : 0x61 ≤ ch.toNat ∧ ch.toNat ≤ 0x7A) : (charMap ch).toNat = ch.toNat - 0x61 := by
  have hrow : charMap ch = BitVec.ofNat 5 (ch.toNat - 0x61) := (if_neg (by omega)).trans (if_pos h)
  rw [hrow, BitVec.toNat_ofNat, Nat.mod_eq_of_lt (by omega)]

/-- A byte outside the alphabet passes every row of the table and takes the last one. -/
theorem charMap_of_not_inAlphabet (h : Receiver.inAlphabet ch = false) : charMap ch = 26 := by
  have hnot := Bool.eq_false_iff.1 h
  simp only [ne_eq, Receiver.inAlphabet_iff, not_or, ← BitVec.toNat_inj] at hnot
  obtain ⟨hupper, hlower, hquestion, hminus, hstar, hdollar⟩ := hnot
  exact (if_neg hupper).trans <| (if_neg hlower).trans <| (if_neg hquestion).trans <| (if_neg hminus).trans <|
    (if_neg hstar).trans (if_neg hdollar)

/-! ### DECODE after CHARMAP -/

theorem Receiver.decodeCode_of_le {code : BitVec 5} (h : code.toNat ≤ 25) :
    Receiver.decodeCode code = .char (BitVec.ofNat 8 (0x41 + code.toNat)) :=
  if_pos h

theorem Receiver.upperCase_of_upper (h : 0x41 ≤ ch.toNat ∧ ch.toNat ≤ 0x5A) :
    Receiver.upperCase ch = BitVec.ofNat 8 (0x41 + (ch.toNat - 0x41)) := by
  rw [Receiver.upperCase, if_neg (by omega), Nat.add_sub_cancel' h.1, BitVec.ofNat_toNat, BitVec.setWidth_eq]

theorem Receiver.upperCase_of_lower (h : 0x61 ≤ ch.toNat ∧ ch.toNat ≤ 0x7A) :
    Receiver.upperCase ch = BitVec.ofNat 8 (0x41 + (ch.toNat - 0x61)) := by
  rw [Receiver.upperCase, if_pos h]
  bv_omega

/-- What a receiver reads of a name byte: its upper-case form, or that it was outside the alphabet (R78). -/
theorem Receiver.decodeCode_charMap (ch : Byte) : Receiver.decodeCode (charMap ch) =
    if Receiver.inAlphabet ch then .char (Receiver.upperCase ch) else .outside := by
  split
  next hin =>
    obtain hupper | hlower | rfl | rfl | rfl | rfl := Receiver.inAlphabet_iff.1 hin
    · have hcode := charMap_toNat_of_upper hupper
      rw [Receiver.decodeCode_of_le (by omega), hcode, Receiver.upperCase_of_upper hupper]
    · have hcode := charMap_toNat_of_lower hlower
      rw [Receiver.decodeCode_of_le (by omega), hcode, Receiver.upperCase_of_lower hlower]
    all_goals rfl
  next hout =>
    rw [charMap_of_not_inAlphabet (Bool.eq_false_iff.2 hout)]
    rfl

/-- A receiver never reads the reserved code, so CHARMAP never gives it (R74). -/
theorem charMap_ne_31 (ch : Byte) : charMap ch ≠ 31 := by
  intro h
  have hreserved := Receiver.decodeCode_charMap ch
  rw [h] at hreserved
  split at hreserved <;> exact nomatch hreserved

end alphabet

/-! ### The name codes in a block -/

/-- Code 31 is the only one whose five bits are ones. -/
theorem eq_31_of_fieldBits (code : BitVec 5) (h : fieldBits code.toNat wChar = [true, true, true, true, true]) :
    code = 31 := by
  revert code
  decide

/-- The five bits from offset `34 + 5k` of a block are those of character `k` (R43). -/
theorem Record.block_charBits (c : Config) (name : Vector Byte 32) (alfn b : Nat) (k : Fin 32) :
    ((Record.block c name alfn b).drop (34 + 5 * k.val)).take 5 = charBits name[k.val] := by
  refine List.ext_getElem? fun i => ?_
  by_cases hi : i < 5
  · rw [List.getElem?_take_of_lt hi, List.getElem?_drop, Record.block_getElem?_name c name alfn b k ⟨i, hi⟩]
    exact (fieldBits_getElem? _ hi).symm
  · rw [List.getElem?_take_eq_none (by omega), List.getElem?_eq_none (by rw [charBits_length]; omega)]

/-! ### The obligations -/

/-- Settles O28. -/
theorem charMapFollowsTable : Obligations.CharMapFollowsTable := by
  refine fun c => ⟨charMap_toNat_of_upper, charMap_toNat_of_lower, ?_, ?_, ?_, ?_, charMap_of_not_inAlphabet⟩
  all_goals rintro rfl; rfl

/-- Settles O30: DECODE's own table, its inverse law, and the bytes counted. -/
theorem receiverInvertsCharMap : Obligations.ReceiverInvertsCharMap :=
  ⟨fun _ => Receiver.decodeCode_of_le, rfl, rfl, rfl, rfl, rfl, rfl, Receiver.decodeCode_charMap, rfl⟩

/-- Settles O29: five ones at the place of a name code would be the code 31 of its character. -/
theorem noBlockCarriesCode31 : Obligations.NoBlockCarriesCode31 := by
  refine ⟨charMap_ne_31, fun c name alfn b k hones => charMap_ne_31 name[k.val] (eq_31_of_fieldBits _ ?_)⟩
  rwa [Record.block_charBits] at hones

/-- Settles O22: the micro-op emits the bits of the whole name. -/
theorem nameEmitsCodes : Obligations.NameEmitsCodes := by
  refine ⟨rfl, fun s hpos => ⟨_, nameBits s.name, rfl, emitted_advance s _ (by rwa [nameBits_length]),
    nameBits_length _, fun k i => ?_⟩⟩
  rw [Nat.mul_comm]
  exact nameBits_getElem? s.name k i

end Sys2Proof
end

section
/-! PROOFS of the family 44_checksum.md, part 1: what a receiver reads of a block of the record, and that it verifies
(R83). -/

namespace Sys2Proof

open Machine

/-- A receiver reads bits where the units hold them, each zero-extended (R29). -/
theorem Receiver.bitsAt_of_units {s : State} : ∀ {bits : List Bool} {base n : Nat}, bits.length = n →
    (∀ i x, bits[i]? = some x → unitAt s (base + i) = some (unitOf x)) → Receiver.bitsAt s base n = some bits
  | [], _, _, rfl, _ => rfl
  | x :: bits, base, _, rfl, h => by
    have hfirst : unitAt s base = some (unitOf x) := h 0 x rfl
    have hrest : Receiver.bitsAt s (base + 1) bits.length = some bits :=
      Receiver.bitsAt_of_units rfl fun i y hy => by
        rw [Nat.add_assoc, Nat.add_comm 1]
        exact h (i + 1) y hy
    simp only [List.length_cons, Receiver.bitsAt, hfirst, hrest]
    cases x <;> rfl

/-- The checksum covers CRC_DATA_BITS bits (R9, R43). -/
@[simp] theorem Record.data_length (c : Config) (name : Vector Byte 32) (alfn b : Nat) :
    (Record.data c name alfn b).length = c.crcDataBits := by
  rw [← Record.upTo_crc, Record.upTo_length]
  rfl

/-- Every block of the record verifies: its last field is the checksum of the bits before it (R83). -/
theorem Record.block_verifies (c : Config) (name : Vector Byte 32) (alfn b : Nat) :
    Receiver.verifies c (Record.block c name alfn b) = true := by
  have hlen := Record.data_length c name alfn b
  rw [Receiver.verifies, Record.block, List.drop_left' hlen, List.take_left' hlen, beq_self_eq_true]

end Sys2Proof

namespace Sys2Proof.Machine

/-- Where frames have been written, a receiver reads every block of the record (R44). -/
theorem FramesWritten.bitsAt_block {s t : State} {base k f b : Nat} (h : FramesWritten s base k t) (hf : f < k)
    (hb : b < s.cfg.blocksPerFrame) :
    Receiver.bitsAt t (base + (f * s.cfg.blocksPerFrame + b) * s.cfg.blockBits) s.cfg.blockBits =
      some (Record.block s.cfg s.name (((alfnValue s).toNat + f) % 2 ^ s.cfg.wAlfn) b) := by
  have hlen := Record.block_length s.cfg s.name (((alfnValue s).toNat + f) % 2 ^ s.cfg.wAlfn) b
  refine Receiver.bitsAt_of_units hlen fun i x hx => ?_
  obtain ⟨hi, -⟩ := List.getElem?_eq_some_iff.1 hx
  rw [hlen] at hi
  rw [Nat.add_assoc]
  exact h.units _ x ((Record.output_getElem? s.cfg s.name _ b hf hb hi).trans hx)

/-- Settles O58: the ENCODE runs to its end and has written its frames, of which every block verifies. -/
theorem everyEmittedBlockVerifies : Obligations.EveryEmittedBlockVerifies := by
  intro s n hinv hready hwhole
  obtain ⟨t, hsteps, hend⟩ := encode_runs_to_end hinv hready hwhole
  exact ⟨t, hsteps, fun f b hf hb => ⟨_, hend.written.bitsAt_block hf hb, Record.block_verifies _ _ _ _⟩⟩

end Sys2Proof.Machine
end

section
/-! PROOFS of the family 44_checksum.md, part 2: the checksum register (R79), its identities (R82), the polynomial
register it mirrors (R81), and CRC (R80). -/

namespace Sys2Proof.Machine

/-! ### The checksum register -/

/-- A flush round is a round whose input bit is 0. -/
theorem crcFlushRound_eq (r : BitVec 16) : crcFlushRound r = crcRound r false := by
  have hinput : (BitVec.ofBool false).setWidth 16 <<< 15 = 0#16 := rfl
  simp only [crcFlushRound, crcRound, hinput, BitVec.or_zero]

/-- Flush rounds process as many 0 bits. -/
theorem crcFlush_eq_foldl (k : Nat) : ∀ r, crcFlush k r = (List.replicate k false).foldl crcRound r := by
  induction k with
  | zero => exact fun _ => rfl
  | succ k ih =>
    intro r
    rw [crcFlush, ih, crcFlushRound_eq, List.replicate_succ, List.foldl_cons]

/-- The register runs over the reversed data and then over 16 zeros (R79). -/
theorem crcRegister_eq_foldl (d : List Bool) :
    crcRegister d = (d.reverse ++ List.replicate 16 false).foldl crcRound 0 := by
  rw [crcRegister, crcFlush_eq_foldl, List.foldl_append]
  rfl

/-- Bit `i` after a round: the next bit of the register, at bit 15 the input, and the mask's bit where a 1 was shifted
out (R79). -/
theorem getLsbD_crcRound (r : BitVec 16) (x : Bool) {i : Nat} (hi : i < 16) :
    (crcRound r x).getLsbD i =
      ((if i = 15 then x else r.getLsbD (i + 1)) ^^ (r.getLsbD 0 && crcPoly.getLsbD i)) := by
  have hshifted : ((r >>> 1) ||| ((BitVec.ofBool x).setWidth 16 <<< 15)).getLsbD i =
      if i = 15 then x else r.getLsbD (i + 1) := by
    rw [BitVec.getLsbD_or, BitVec.getLsbD_ushiftRight, BitVec.getLsbD_shiftLeft, Nat.add_comm 1]
    by_cases h15 : i = 15
    · subst h15
      simp
    · have hlt : i < 15 := by omega
      simp [h15, hlt]
  rw [crcRound]
  cases r.getLsbD 0 <;> simpa using hshifted

/-- A round is additive in the register and the input together. -/
theorem crcRound_xor (r q : BitVec 16) (x y : Bool) : crcRound (r ^^^ q) (x ^^ y) = crcRound r x ^^^ crcRound q y := by
  refine BitVec.eq_of_getLsbD_eq fun i hi => ?_
  rw [BitVec.getLsbD_xor, getLsbD_crcRound _ _ hi, getLsbD_crcRound _ _ hi, getLsbD_crcRound _ _ hi, BitVec.getLsbD_xor,
    BitVec.getLsbD_xor, Bool.and_xor_distrib_right]
  split <;> simp only [Bool.xor_assoc, Bool.xor_left_comm]

/-- So is a run of rounds over data of one length. -/
theorem foldl_crcRound_xor : ∀ {a b : List Bool} (r q : BitVec 16), a.length = b.length →
    (List.zipWith xor a b).foldl crcRound (r ^^^ q) = a.foldl crcRound r ^^^ b.foldl crcRound q
  | [], [], _, _, _ => rfl
  | x :: a, y :: b, r, q, h => by
    rw [List.zipWith_cons_cons, List.foldl_cons, List.foldl_cons, List.foldl_cons, crcRound_xor,
      foldl_crcRound_xor _ _ (Nat.succ.inj h)]

/-! ### The identities of CRC12 (R82) -/

/-- The register is additive over data of one length. -/
theorem crcRegister_xor {a b : List Bool} (h : a.length = b.length) :
    crcRegister (List.zipWith xor a b) = crcRegister a ^^^ crcRegister b := by
  have hpadded : (List.zipWith xor a b).reverse ++ List.replicate 16 false =
      List.zipWith xor (a.reverse ++ List.replicate 16 false) (b.reverse ++ List.replicate 16 false) := by
    rw [List.zipWith_append (by simpa using h), List.reverse_zipWith h]
    rfl
  rw [crcRegister_eq_foldl, crcRegister_eq_foldl, crcRegister_eq_foldl, hpadded,
    ← foldl_crcRound_xor 0 0 (by simpa using h)]
  rfl

/-- The final XOR makes the additive register an affine checksum. -/
theorem crcOutput_xor (r q : BitVec 16) : crcOutput (r ^^^ q) = crcOutput r ^^^ crcOutput q ^^^ 0x955 := by
  have hxorOut : (0x955 : BitVec 12) = crcXorOut.extractLsb' 0 12 := rfl
  have hcancel : r ^^^ q ^^^ crcXorOut = r ^^^ crcXorOut ^^^ (q ^^^ crcXorOut) ^^^ crcXorOut := by
    rw [← BitVec.xor_assoc, BitVec.xor_assoc _ crcXorOut crcXorOut, BitVec.xor_self, BitVec.xor_zero]
    ac_rfl
  rw [crcOutput, hcancel, BitVec.extractLsb'_xor, BitVec.extractLsb'_xor, ← hxorOut, crcOutput, crcOutput]

theorem crcRound_zero : crcRound 0 false = 0 := by decide

/-- Zeros leave the register 0. -/
theorem foldl_crcRound_zeros (k : Nat) : (List.replicate k false).foldl crcRound 0 = 0 := by
  induction k with
  | zero => rfl
  | succ k ih => rw [List.replicate_succ, List.foldl_cons, crcRound_zero, ih]

theorem crcRegister_zeros (n : Nat) : crcRegister (List.replicate n false) = 0 := by
  rw [crcRegister_eq_foldl, List.reverse_replicate, List.replicate_append_replicate, foldl_crcRound_zeros]

/-- A trailing zero is processed first, on the register 0. -/
theorem crcRegister_append_false (d : List Bool) : crcRegister (d ++ [false]) = crcRegister d := by
  rw [crcRegister_eq_foldl, crcRegister_eq_foldl, List.reverse_append, List.reverse_singleton, List.singleton_append,
    List.cons_append, List.foldl_cons, crcRound_zero]

theorem crcRegister_append_zeros (d : List Bool) (k : Nat) :
    crcRegister (d ++ List.replicate k false) = crcRegister d := by
  induction k with
  | zero => rw [List.replicate_zero, List.append_nil]
  | succ k ih => rw [List.replicate_succ', ← List.append_assoc, crcRegister_append_false, ih]

/-- The values R82 gives for a single 1 at offsets 0, 1 and 2, run through the rounds. -/
theorem crc12_examples : crc12 [true] = 0x945 ∧ crc12 [false, true] = 0x15D ∧ crc12 [false, false, true] = 0xD51 := by
  refine ⟨?_, ?_, ?_⟩ <;>
    simp [crc12, crcRegister, crcFlushRounds, crcFlush, crcFlushRound, crcRound, crcInit, crcPoly, crcOutput, crcXorOut]

/-- Settles O31: a single 1 leaves only trailing zeros after it, which do not count. -/
theorem crcIdentities : Obligations.CrcIdentities := by
  refine ⟨fun n => ⟨?_, crcRegister_zeros n⟩, fun d => ?_, fun a b h => ?_, fun j n _ => ?_, crc12_examples⟩
  · rw [crc12, crcRegister_zeros]
    rfl
  · rw [crc12, crcRegister_append_false, crc12]
  · rw [crc12, crcRegister_xor h, crcOutput_xor, crc12, crc12]
  · rw [crc12, List.append_cons, crcRegister_append_zeros, crc12]

/-! ### The polynomial register (R81) -/

/-- Bit `i` from the left after a round of the polynomial register: what `getLsbD_crcRound` says of the reflected
register's bit `i`. -/
theorem getMsbD_standardRound (r : BitVec 16) (x : Bool) {i : Nat} (hi : i < 16) :
    (standardRound r x).getMsbD i =
      ((if i = 15 then x else r.getMsbD (i + 1)) ^^ (r.getMsbD 0 && (0x080B : BitVec 16).getMsbD i)) := by
  have hshifted : ((r <<< 1) ||| (BitVec.ofBool x).setWidth 16).getMsbD i =
      if i = 15 then x else r.getMsbD (i + 1) := by
    rw [BitVec.getMsbD_or, BitVec.getMsbD_shiftLeft]
    by_cases h15 : i = 15
    · subst h15
      cases x <;> simp
    · cases x <;> simp [h15]
  have htop : r.getMsbD 0 = r.getLsbD 15 := rfl
  rw [standardRound, htop]
  cases r.getLsbD 15 <;> simpa using hshifted

/-- The mask is the polynomial's, reversed. -/
theorem crcPoly_eq_reverse : crcPoly = (0x080B : BitVec 16).reverse := by decide

/-- The two registers take the same round, each seen from its end. -/
theorem crcRound_reverse (r : BitVec 16) (x : Bool) : crcRound r.reverse x = (standardRound r x).reverse := by
  refine BitVec.eq_of_getLsbD_eq fun i hi => ?_
  simp only [getLsbD_crcRound _ _ hi, BitVec.getLsbD_reverse, getMsbD_standardRound _ _ hi, crcPoly_eq_reverse]

/-- Settles O32: a run of rounds by `crcRound_reverse` at each of them. -/
theorem crcRunsReflectedPolynomial : Obligations.CrcRunsReflectedPolynomial := by
  refine ⟨crcPoly_eq_reverse, crcRound_reverse, fun r => ?_, fun d => ?_⟩
  · rw [crcFlushRound_eq, crcRound_reverse]
  · rw [crcRegister_eq_foldl]
    exact List.foldl_hom (init := 0) BitVec.reverse crcRound_reverse

/-! ### CRC (R80) -/

/-- The micro-op runs the register, then emits the checksum of the block buffer. -/
theorem exec_crc (s : State) : exec .crc s =
    .next (advance (emitBits (withCrc s (crcRegister s.bb)) (fieldBits (crc12 s.bb).toNat wCrc))) := rfl

/-- Settles O25. -/
theorem crcEmitsChecksum : Obligations.CrcEmitsChecksum := by
  refine ⟨rfl, fun s hpos => ?_, fun s hinv hrun hupc => ?_⟩
  · have hlen : (fieldBits (crc12 s.bb).toNat wCrc).length = 12 := fieldBits_length _ _
    have hreg : (advance (emitBits (withCrc s (crcRegister s.bb)) (fieldBits (crc12 s.bb).toNat wCrc))).crc =
        crcRegister s.bb := by rw [advance_crc, emitBits_crc]; rfl
    refine ⟨_, _, exec_crc s, ?_, hlen, fun i hi => fieldBits_getElem? _ hi⟩
    rw [hreg]
    exact emitted_advance (withCrc s (crcRegister s.bb)) _ (by rwa [hlen])
  · rw [(hinv.running hrun).buffer (by rw [hupc]; decide), hupc]
    rfl

end Sys2Proof.Machine
end

section
/-! PROOFS of the family 60_exceptions.md: raising a fault (R84), the faults of the host commands (R85 to R87), and the
steps that stop nothing (R86, R97). -/

namespace Sys2Proof.Machine

/-! ### STATUS after a first fault -/

/-- What a first fault records does not depend on the STATUS before it, so it is what a first fault after reset
records. -/
theorem recordFault_of_clear {status : Word64} (hclear : faultFlag status = false) (code : BitVec 4) :
    recordFault status code = recordFault 0 code := by
  obtain ⟨hset, -⟩ | ⟨-, heq⟩ := recordFault_cases status code
  · simp [hclear] at hset
  · exact heq

/-- FAULT_CODE after a first fault (R84). -/
theorem faultCode_recordFault_zero (code : BitVec 4) : faultCode (recordFault 0 code) = code := by
  revert code
  decide

/-! ### A host command goes on -/

/-- Every host command has a next state: a fault is one as well (R84, R86). -/
theorem exists_exec_of_command {i : Instr} (s : State) (hcmd : i.format = .command) : ∃ t, exec i s = .next t := by
  cases i with
  | encode n =>
    obtain ⟨-, he⟩ | ⟨-, he⟩ | ⟨-, -, he⟩ := execEncode_cases n s <;> exact ⟨_, he⟩
  | bstart | emit | name | padto | alfnsl | crc | bend | reservedMicro7 | reservedMicro8toF => cases hcmd
  | _ => exact ⟨_, rfl⟩

/-- With no reset event and no command presented the idle unit stays as it is (R97). -/
theorem step_of_no_command {s : State} (hidle : s.phase = .idle) (hrst : s.rst = none) (hcmd : s.cmd = none) :
    step s = .next s := by
  simp only [step, hidle, hrst, stepIdle, hcmd]

/-! ### The obligations -/

/-- Settles O41: an idle unit stays or runs a host command, and a running one goes on by `Inv.exists_step`. -/
theorem stepFromInvariantNeverStops : Obligations.StepFromInvariantNeverStops := by
  intro s hinv hrst
  cases hphase : s.phase with
  | run => exact hinv.exists_step hphase hrst
  | idle =>
    cases hcmd : s.cmd with
    | none => exact ⟨s, step_of_no_command hphase hrst hcmd⟩
    | some w =>
      rw [step_of_command hphase hrst hcmd]
      exact exists_exec_of_command (acceptCommand s) (format_decodeCommand w)

/-- Settles O15: by whether a fault came before. -/
theorem raiseFaultRecordsFirstCode : Obligations.RaiseFaultRecordsFirstCode := by
  refine fun s code => ⟨rfl, fun hclear => ⟨?_, ?_, ?_⟩, fun hset => if_pos hset⟩
  · exact faultFlag_recordFault s.status code
  · rw [raiseFault_status, recordFault_of_clear hclear, faultCode_recordFault_zero]
  · rw [statusWord, raiseFault_status, recordFault_of_clear hclear, recordFault_zero_and_mask]

/-- Settles O16: the fault of the table by `exec_of_raises`; where there is none, the effect of the command leaves
STATUS. -/
theorem commandsFaultByTable : Obligations.CommandsFaultByTable := by
  refine fun i s hcmd => ⟨fun code hraises => exec_of_raises hraises, fun hnone => ?_⟩
  obtain ⟨t, ht⟩ := exists_exec_of_command s hcmd
  exact ⟨t, ht, (exec_effect ht).status_eq hnone⟩

/-- Settles O51. -/
theorem idleKeepsState : Obligations.IdleKeepsState :=
  fun _ => step_of_no_command

end Sys2Proof.Machine
end

section
/-! PROOFS of the family 70_reset_and_hazards.md: the command held while an ENCODE runs (R102), the command an idle unit
accepts, and the reset event (R98, R99). -/

namespace Sys2Proof.Machine

/-! ### The ports of an instruction -/

@[simp] theorem nextFrame_cmd (s : State) : (nextFrame s).cmd = s.cmd := by
  obtain ⟨-, he⟩ | ⟨-, he⟩ := nextFrame_cases s <;> rw [he]

@[simp] theorem nextFrame_cmdBase (s : State) : (nextFrame s).cmdBase = s.cmdBase := by
  obtain ⟨-, he⟩ | ⟨-, he⟩ := nextFrame_cases s <;> rw [he]

/-- ENCODE's frame loop responds only where it ends (R53, R64). -/
theorem nextFrame_rsp_of_run {s : State} (hrun : (nextFrame s).phase = .run) : (nextFrame s).rsp = s.rsp := by
  obtain ⟨-, he⟩ | ⟨-, he⟩ := nextFrame_cases s
  · rw [he]
  · rw [he] at hrun
    cases hrun

/-- No instruction changes the command on the port, or its base. -/
theorem Effect.command_port {i : Instr} {s t : State} (h : Effect s i t) : t.cmd = s.cmd ∧ t.cmdBase = s.cmdBase := by
  cases h <;> simp

/-- A micro-op after which the ENCODE goes on responds nothing. -/
theorem Effect.rsp_of_micro {i : Instr} {s t : State} (h : Effect s i t) (hmicro : i.format = .micro)
    (hrun : t.phase = .run) : t.rsp = s.rsp := by
  cases h with
  | responds v hcmd => simp [hcmd] at hmicro
  | faults | encodesNothing => cases hrun
  | encodes | endsBlock => rfl
  | emits => simp
  | endsFrame => exact nextFrame_rsp_of_run hrun

/-! ### The obligations -/

/-- Settles O50: a running unit executes a micro-op, and an idle one has no command or accepts the one presented. -/
theorem commandIsHeldWhileRunning : Obligations.CommandIsHeldWhileRunning := by
  intro s t h
  obtain ⟨p, hidle, hrst, -⟩ | ⟨hidle, -, hnone, rfl⟩ | ⟨w, hidle, -, -, he⟩ | ⟨w, i, hphase, -, -, hdecode, he⟩ :=
    step_eq_next h
  · exact ⟨fun hrun => by simp [hidle] at hrun, fun _ hnone => by simp [hrst] at hnone⟩
  · exact ⟨fun hrun => by simp [hidle] at hrun, fun _ _ => hnone⟩
  · exact ⟨fun hrun => by simp [hidle] at hrun, fun _ _ => he.command_port.1⟩
  · obtain ⟨hmicro, -⟩ := encode_of_decodeMicro hdecode
    obtain ⟨hcmd, hbase⟩ := he.command_port
    exact ⟨fun _ => ⟨hcmd, hbase, he.rsp_of_micro hmicro⟩, fun hidle => by simp [hphase] at hidle⟩

/-- Settles O7: the idle unit executes what it accepts. -/
theorem stepRunsTheCommand : Obligations.StepRunsTheCommand :=
  fun _ _ ⟨hidle, hrst, hcmd⟩ => step_of_command hidle hrst hcmd

/-- A reset event during an ENCODE has no move (R99). -/
theorem step_of_reset_of_run {s : State} {p : RstInputs} (hrun : s.phase = .run) (hrst : s.rst = some p) :
    step s = .refused .resetDuringCommand := by
  simp only [step, hrun, hrst]

/-- Settles O38: between commands the step is the construction, which ends the event; during an ENCODE it is
refused. -/
theorem resetDuringEncodeIsRefused : Obligations.ResetDuringEncodeIsRefused := fun s p hrst =>
  ⟨fun hidle => ⟨construct s p, step_of_reset hidle hrst, construct_rst s p, construct_phase s p⟩,
    fun hrun => step_of_reset_of_run hrun hrst⟩

end Sys2Proof.Machine
end
